-- ==== Sys2Proof/Word.lean ====
section
/-! DEFINITION. The word types of the block: the 32-bit frame or result, and the operand byte. -/

namespace Sys2Proof

/-- A 32-bit value: the frame (`FRAME_W` = 32) and a decode result (`RESULT_W` = 32). R10, R20, R68. -/
abbrev Word := BitVec 32

/-- One operand byte of an acquisition. R60, R62. -/
abbrev Byte := BitVec 8

end Sys2Proof
end

