-- ==== Sys2Proof/Config.lean ====
section
/-! DEFINITION. The parameters of the block, R10: those the source fixes and those the spec sets. -/

namespace Sys2Proof

/-- The two treatments of a `DEC` while `RAWFRAME` is zero. R10 `ZERO_FRAME_DEC`, R90, U1, D7; log 4. -/
inductive ZeroFrameDec
  /-- The operation has no result and the run is marked: the spec's own setting. -/
  | refuse
  /-- U1's optional switch: the value the block's literal computation returns, assumed of the
  implementation. No statement about `exec` or `step` uses it. -/
  | literal
  deriving DecidableEq, Repr

namespace Config

/-- `FRAME_W`, the width of `RAWFRAME` and of format `A`. R10, R62. -/
def frameW : Nat := 32

/-- `N_BYTES`, the bytes of one acquisition. R10, R49. -/
def nBytes : Nat := 4

/-- `RESULT_W`, the width of a decode result. R10, R68. -/
def resultW : Nat := 32

/-- `N_SELECTORS`, the named selector values 0 to 4. R10, R63. -/
def nSelectors : Nat := 5

/-- `MIN_ACQ_INTERVAL` in milliseconds: a duty of the host that the block does not enforce, so no
definition reads it. R10, R86, R136; log 9. -/
def minAcqInterval : Nat := 50

/-- `SEL_W`, the width of the selector: open, at least 3, default 8. The decoder, the encoder, `stepWith` and
`machineAt` take the width as an argument; `step` and `core` are those at this default. R10, R64, D4; log 5 (DESIGN CHOICE). -/
def selW : Nat := 8

/-- `RESET_FRAME`. R10, R42, D5; log 3 (DESIGN CHOICE of the spec). -/
def resetFrame : Word := 0x00000000#32

/-- `ZERO_FRAME_DEC`. R10, R90, D7; log 4 (DESIGN CHOICE of the spec). -/
def zeroFrameDec : ZeroFrameDec := .refuse

end Config

end Sys2Proof
end

