-- ==== Sys2Proof/Syntax.lean ====
section
/-! DEFINITION. What the host can issue: the raw transaction (a call and its operand bits), and the
operation it stands for, one constructor per row of the operation table. -/

namespace Sys2Proof

/-- The three calls of the boundary. A transaction is identified by which of them the host makes, not
by an opcode field. R60, R13. -/
inductive Call
  /-- `new(selectLine)`: operation `INIT`, format `N`. -/
  | new
  /-- `acquire()`: operation `ACQ`, format `A`. -/
  | acquire
  /-- `decode(selector)`: operation `DEC`, format `S`. -/
  | decode
  deriving DecidableEq, Repr

/-- A transaction as the host presents it: the call, how many operand bits it carries, and those bits
read as an unsigned integer (bit 0 the least significant, R11). R60, R62; log 7, log 8. -/
structure Request where
  call    : Call
  width   : Nat
  operand : Nat
  deriving DecidableEq, Repr

/-- Why a transaction is none of the three formats. Such a transaction does not exist at the block's
boundary (R49, R62, R73), so it is rejected by name and reaches no operation; log 8. -/
inductive Reject
  /-- The call carries another number of operand bits than its format. -/
  | operandWidth (call : Call) (width : Nat)
  /-- The operand is not a value of its width. -/
  | operandRange (call : Call) (operand : Nat)
  deriving DecidableEq, Repr

/-- The five decoded fields a selector picks. R17, R63. -/
inductive FieldSelector
  | fault | frac | cold | hotr | hotu
  deriving DecidableEq, Repr

/-- The operations, one constructor per row of the operation table. R60, R76. -/
inductive Instr
  /-- `INIT`. R85. -/
  | init
  /-- `ACQ b0 b1 b2 b3`, bytes in the order they were obtained. R80. -/
  | acq (b0 b1 b2 b3 : Byte)
  /-- `DEC.FAULT`, selector 4. R93. -/
  | decFault
  /-- `DEC.FRAC`, selector 3. R94. -/
  | decFrac
  /-- `DEC.COLD`, selector 2. R95. -/
  | decCold
  /-- `DEC.HOTU`, selector 1. R97. -/
  | decHotu
  /-- `DEC.HOTR`, selector 0 and the default: the raw value is kept. R96, R63, R64. -/
  | decHotr (sel : Nat)
  deriving DecidableEq, Repr

end Sys2Proof
end

