-- ==== Sys2Proof/Machine/State.lean ====
section
/-! DEFINITION. The state: the block's one register, and beside it the two records of a run at the
block's boundary, the inputs still to come and the values returned so far. -/

namespace Sys2Proof.Machine

/-- The block raises no exception: no operation traps, faults or aborts (R110), so there is no fault to
name. An empty type is exact, neither safe nor unsafe: nothing raises one; log 10. -/
inductive Fault
  deriving DecidableEq, Repr

/-- Why the model gives an operation no meaning. -/
inductive Refusal
  /-- Raised by `exec` for a row of the operation table that has no meaning yet. No row is. Safe. -/
  | notModelled (mnemonic : String)
  /-- Raised by the five `DEC` operations while `RAWFRAME` is zero: the spec calls the behaviour
  unspecified and rules that the model refuses it (R90, R133, R135; C6, D7, U1; log 4). Safe. -/
  | zeroFrameDecode
  /-- Raised by `step` for a transaction that is none of the three formats, which the boundary does not
  have (R49, R62, R73; log 8). Safe. -/
  | malformedTransaction (why : Reject)
  deriving DecidableEq, Repr

/-- The architectural state of the block: one register and nothing else. R20, R21, R40. -/
structure Block where
  /-- `RAWFRAME`. -/
  rawFrame : Word
  deriving DecidableEq, Repr

/-- One thing the outside does to the block, between two operations. R141. -/
inductive Input
  /-- The reset event. R61 `rst`, R130; log 13. -/
  | rst
  /-- The host issues a transaction. R60. -/
  | issue (r : Request)
  deriving DecidableEq, Repr

/-- A value an operation returns to the host: `available` from `ACQ`, `result` from `DEC`, nothing from
`INIT`. R12, R133, R141. -/
inductive Return
  | available (b : Bool)
  | result (v : Word)
  deriving DecidableEq, Repr

/-- The block and the records of its run. `pending` and `returned` are the MODEL's own: they are the
sequence of operations and the sequence of returned values of R133, and no state of the block
(R22, R40; log 1, log 2). -/
structure State where
  block    : Block
  /-- The inputs still to come, oldest first. -/
  pending  : List Input
  /-- The values returned so far, oldest first. -/
  returned : List Return
  deriving DecidableEq, Repr

/-- Right after reset: `RAWFRAME` = `RESET_FRAME` (R42, R131; log 3), no input issued and no value
returned yet (R133; log 1, log 2). -/
def State.reset : State := ⟨⟨Config.resetFrame⟩, [], []⟩

end Sys2Proof.Machine
end

