-- ==== Sys2Proof/Machine/Flags.lean ====
section
/-! DEFINITION. The one status signal of the block. There is no other flag (R36). -/

namespace Sys2Proof.Machine

/-- Whether a frame is available: some bit of the 32 is set. R35, R81. -/
def availableOf (f : Word) : Bool := f != 0x00000000#32

/-- `available`, computed from `RAWFRAME` at every moment and not stored. R35. -/
def State.available (s : State) : Bool := availableOf s.block.rawFrame

end Sys2Proof.Machine
end

