-- ==== Sys2Proof/WellFormed.lean ====
section
/-! DEFINITION. Which terms of `Instr` stand for an operation the host can issue. -/

namespace Sys2Proof

/-- An operation the host can issue when the selector has `selW` bits. Every operand of `INIT` and
`ACQ` is legal (R62, R65); the raw value of the default `DEC` row is a `selW`-bit value that no exact
row takes (R63, R64). -/
def Instr.wf (selW : Nat) : Instr → Bool
  | .init => true
  | .acq _ _ _ _ => true
  | .decFault => true
  | .decFrac => true
  | .decCold => true
  | .decHotu => true
  | .decHotr sel => decide (sel < 2 ^ selW) && !(decide (1 ≤ sel) && decide (sel ≤ 4))

end Sys2Proof
end

