-- ==== Sys2Proof/Decode.lean ====
section
/-! DEFINITION. From a transaction to the operation it stands for, total, rejecting by name; then the
encoder, written from the same formats; then the operation table's numbering of the same bits. -/

namespace Sys2Proof

/-! ## The selector map -/

/-- The selector map: equality of the whole value with 4, 3, 2, 1, and the rounded hot integer for
every other value. R63, R64, R98. -/
def selectField (s : Nat) : FieldSelector :=
  if s = 4 then .fault
  else if s = 3 then .frac
  else if s = 2 then .cold
  else if s = 1 then .hotu
  else .hotr

/-- `DEC s`. R63, R74. -/
def decOf (s : Nat) : Instr :=
  match selectField s with
  | .fault => .decFault
  | .frac => .decFrac
  | .cold => .decCold
  | .hotu => .decHotu
  | .hotr => .decHotr s

/-- `ACQW w`: the acquisition whose four bytes are those of `w`, the most significant first. R75, R62. -/
def acqw (w : Word) : Instr :=
  .acq (w.extractLsb' 24 8) (w.extractLsb' 16 8) (w.extractLsb' 8 8) (w.extractLsb' 0 8)

/-! ## Decoding a transaction -/

/-- How many operand bits each call carries: formats `N`, `A` and `S`. R62, R73. -/
def formatWidth (selW : Nat) : Call → Nat
  | .new => 0
  | .acquire => Config.frameW
  | .decode => selW

/-- The operation of a call whose operand bits are a value of its format. R60, R62, R63. -/
def operationOf (call : Call) (operand : Nat) : Instr :=
  match call with
  | .new => .init
  | .acquire => acqw (BitVec.ofNat 32 operand)
  | .decode => decOf operand

/-- The decoder, for any selector width. R60, R62, R65; a transaction of another shape is rejected by
name (R49, R73; log 8). -/
def decode (selW : Nat) (r : Request) : Except Reject Instr :=
  if r.width ≠ formatWidth selW r.call then .error (.operandWidth r.call r.width)
  else if 2 ^ r.width ≤ r.operand then .error (.operandRange r.call r.operand)
  else .ok (operationOf r.call r.operand)

/-- The decoder at the default selector width. -/
def decodeOperation (r : Request) : Except Reject Instr :=
  decode Config.selW r

/-- The transaction of a call whose operand is a sequence of bytes, the first most significant.
R46, R62. -/
def requestOfBytes (call : Call) (bytes : List Byte) : Request :=
  ⟨call, 8 * bytes.length, bytes.foldl (fun n b => 256 * n + b.toNat) 0⟩

/-- Decoding any bytes presented with a call. -/
def decodeBytes (selW : Nat) (call : Call) (bytes : List Byte) : Except Reject Instr :=
  decode selW (requestOfBytes call bytes)

/-! ## Encoding an operation -/

/-- The format `A` operand: `A[31:24]` = `b0` down to `A[7:0]` = `b3`. R62. -/
def acqOperand (b0 b1 b2 b3 : Byte) : Nat :=
  2 ^ 24 * b0.toNat + 2 ^ 16 * b1.toNat + 2 ^ 8 * b2.toNat + b3.toNat

/-- The encoder: the transaction of each row of the operation table. R60, R62, R63, R76. -/
def encode (selW : Nat) : Instr → Request
  | .init => ⟨.new, 0, 0⟩
  | .acq b0 b1 b2 b3 => ⟨.acquire, Config.frameW, acqOperand b0 b1 b2 b3⟩
  | .decFault => ⟨.decode, selW, 4⟩
  | .decFrac => ⟨.decode, selW, 3⟩
  | .decCold => ⟨.decode, selW, 2⟩
  | .decHotu => ⟨.decode, selW, 1⟩
  | .decHotr sel => ⟨.decode, selW, sel⟩

/-! ## The operation table's numbering -/

/-- The call a table row stands for, by the number of operand bits the table gives it: none for
`INIT`, the selector for `DEC`, the frame for `ACQ`. R62, R76; log 7 (DESIGN CHOICE). -/
def callOfTableWidth (selW nbits : Nat) : Call :=
  if nbits = 0 then .new else if nbits = selW then .decode else .acquire

/-- The transaction of a table row whose operand bits are `w`, bit 0 the least significant. R11, R76. -/
def requestOfTableWord (selW nbits w : Nat) : Request :=
  ⟨callOfTableWidth selW nbits, nbits, w % 2 ^ nbits⟩

/-- What the decoder reads from a table row's bits; none where it rejects. The table gives its rows for the
default selector width (R76). -/
def decodeTableWord (nbits w : Nat) : Option Instr :=
  match decodeOperation (requestOfTableWord Config.selW nbits w) with
  | .ok i => some i
  | .error _ => none

end Sys2Proof
end

