-- ==== Sys2Proof/Machine/Operands.lean ====
section
/-! DEFINITION. How the operand of an acquisition becomes a frame, the named fields of a frame, and the
five views of it that the decode operations return. -/

namespace Sys2Proof.Machine

/-! ## The frame an acquisition writes -/

/-- `b0 ‖ b1 ‖ b2 ‖ b3`: the byte obtained first is the most significant; no bit is masked, moved or
checked. R46, R67; log 12. -/
def assembleFrame (b0 b1 b2 b3 : Byte) : Word := b0 ++ b1 ++ b2 ++ b3

/-! ## The named fields of a frame -/

/-- `HSIGN`. R24. -/
def hsign (f : Word) : Bool := f.getLsbD 31
/-- `HMAG`. R25. -/
def hmag (f : Word) : BitVec 13 := f.extractLsb' 18 13
/-- `HFRAC`, the low two bits of `HMAG`. R25. -/
def hfrac (f : Word) : BitVec 2 := f.extractLsb' 18 2
/-- `RSV17`. R26. -/
def rsv17 (f : Word) : Bool := f.getLsbD 17
/-- `FAULTAGG`. R27. -/
def faultAgg (f : Word) : Bool := f.getLsbD 16
/-- `CSIGN`. R28. -/
def csign (f : Word) : Bool := f.getLsbD 15
/-- `CMAG`. R29. -/
def cmag (f : Word) : BitVec 11 := f.extractLsb' 4 11
/-- `CFRAC`, the low four bits of `CMAG`. R29. -/
def cfrac (f : Word) : BitVec 4 := f.extractLsb' 4 4
/-- `RSV3`. R30. -/
def rsv3 (f : Word) : Bool := f.getLsbD 3
/-- `F_SUPPLY`. R31. -/
def fSupply (f : Word) : Bool := f.getLsbD 2
/-- `F_GROUND`. R32. -/
def fGround (f : Word) : Bool := f.getLsbD 1
/-- `F_OPEN`. R33. -/
def fOpen (f : Word) : Bool := f.getLsbD 0

/-- `HOT14`. R34. -/
def hot14 (f : Word) : BitVec 14 := f.extractLsb' 18 14
/-- `HOT12`. R34. -/
def hot12 (f : Word) : BitVec 12 := f.extractLsb' 20 12
/-- `COLD12`. R34. -/
def cold12 (f : Word) : BitVec 12 := f.extractLsb' 4 12
/-- `FAULT3`. R34. -/
def fault3 (f : Word) : BitVec 3 := f.extractLsb' 0 3

/-! ## The five views, as the rules compute them -/

/-- `f >>u 18`: the 14-bit hot field with zeros above. R94, R96, R97. -/
def hotShift (f : Word) : Word := f >>> 18

/-- `DEC.FAULT`: `f & 0x00000007`. R93. -/
def faultView (f : Word) : Word := f &&& 0x00000007#32

/-- `DEC.FRAC`: `(f >>u 18) & 0x00000003`. R94. -/
def fracView (f : Word) : Word := hotShift f &&& 0x00000003#32

/-- `DEC.COLD`: the masked and shifted cold field, sign-extended by OR when bit 15 is set. R91, R95. -/
def coldView (f : Word) : Word :=
  let t := (f &&& 0x0000FFF0#32) >>> 4
  if f.getLsbD 15 then t ||| 0xFFFFF000#32 else t

/-- `DEC.HOTU`: `(f >>u 18) >>u 2`, bit 31 neither extended nor masked. R97, R101; log 11. -/
def hotuView (f : Word) : Word := hotShift f >>> 2

/-- `DEC.HOTR`: the same, plus 1 in 32 bits when the quarter-degree code is 2 or 3. R96, R101; log 11. -/
def hotrView (f : Word) : Word :=
  let q := hotShift f &&& 0x00000003#32
  let t := hotShift f >>> 2
  if 2#32 ≤ q then t + 1#32 else t

/-- The view a field selector picks. R98. -/
def viewOf : FieldSelector → Word → Word
  | .fault => faultView
  | .frac => fracView
  | .cold => coldView
  | .hotr => hotrView
  | .hotu => hotuView

/-- The pure function `decode(f, s)`, total in both arguments. R14, R98. -/
def decodeField (f : Word) (s : Nat) : Word := viewOf (selectField s) f

end Sys2Proof.Machine
end

