-- ==== Sys2Proof/Machine/Ops.lean ====
section
/-! DEFINITION. The named operations over the state that the meanings are written with. The block takes
no exception and returns from none (R110, R115, R116), so there is no exception entry here. -/

namespace Sys2Proof.Machine

/-! ## The register and the returned values -/

/-- `RAWFRAME`, read. R20. -/
def State.rawFrame (s : State) : Word := s.block.rawFrame

/-- `RAWFRAME <- f`: all 32 bits at once. R12, R20, R51. -/
def State.writeFrame (s : State) (f : Word) : State := { s with block := ⟨f⟩ }

/-- The operation returns `r` to the host. R12, R133. -/
def State.giveBack (s : State) (r : Return) : State := { s with returned := s.returned ++ [r] }

/-! ## Reset -/

/-- The reset event: `RAWFRAME <- RESET_FRAME` and nothing else. R130, R85. -/
def applyReset (s : State) : State := s.writeFrame Config.resetFrame

/-! ## Loading a frame -/

/-- Store `f` bit for bit and return `available` of it. R80, R81, R82. -/
def loadFrame (f : Word) (s : State) : State :=
  (s.writeFrame f).giveBack (.available (availableOf f))

/-! ## Reading a view -/

/-- What the model does with a `DEC` while `RAWFRAME` is zero. R10, R90; log 4. -/
def zeroFramePolicy : ZeroFrameDec := Config.zeroFrameDec

/-- Return a view of `RAWFRAME` and change no state, under either treatment of the zero frame.
R90, R99, U1. -/
def readViewUnder (policy : ZeroFrameDec) (view : Word → Word) (s : State) :
    Host.Outcome State Fault Refusal :=
  if s.available then .next (s.giveBack (.result (view s.rawFrame)))
  else match policy with
    | .refuse => .refused .zeroFrameDecode
    | .literal => .next (s.giveBack (.result (view s.rawFrame)))

/-- Return a view of `RAWFRAME` and change no state. R90, R99. -/
def readView (view : Word → Word) (s : State) : Host.Outcome State Fault Refusal :=
  readViewUnder zeroFramePolicy view s

/-! ## The next input -/

/-- The input the block meets next, and the state with it taken off: the inputs take effect one at a
time in the order issued. R52, R133; log 1. -/
def nextInput (s : State) : Option (Input × State) :=
  match s.pending with
  | [] => none
  | i :: rest => some (i, { s with pending := rest })

/-- The host issues an input after those it has issued already. R52, R133. -/
def State.submit (s : State) (i : Input) : State := { s with pending := s.pending ++ [i] }

/-- The host issues an input that the block meets next; log 7. -/
def State.submitFirst (s : State) (i : Input) : State := { s with pending := i :: s.pending }

end Sys2Proof.Machine
end

