-- ==== Sys2Proof/Machine/Acquire.lean ====
section
/-! DEFINITION. The frame load family: `INIT` and `ACQ`. -/

namespace Sys2Proof.Machine

/-- `INIT`: the same event as reset; returns nothing. R85. -/
def execInit (s : State) : Host.Outcome State Fault Refusal := .next (applyReset s)

/-- `ACQ b0 b1 b2 b3`: load the frame of the four bytes, whatever they are, and return `available`.
R80, R81, R82, R83. -/
def execAcq (b0 b1 b2 b3 : Byte) (s : State) : Host.Outcome State Fault Refusal :=
  .next (loadFrame (assembleFrame b0 b1 b2 b3) s)

end Sys2Proof.Machine
end

