-- ==== Sys2Proof/Machine/DecodeFamily.lean ====
section
/-! DEFINITION. The decode family: the five `DEC` operations. -/

namespace Sys2Proof.Machine

/-- `DEC.FAULT`. R93. -/
def execDecFault (s : State) : Host.Outcome State Fault Refusal := readView faultView s

/-- `DEC.FRAC`. R94. -/
def execDecFrac (s : State) : Host.Outcome State Fault Refusal := readView fracView s

/-- `DEC.COLD`. R95. -/
def execDecCold (s : State) : Host.Outcome State Fault Refusal := readView coldView s

/-- `DEC.HOTU`. R97. -/
def execDecHotu (s : State) : Host.Outcome State Fault Refusal := readView hotuView s

/-- `DEC.HOTR`: every selector value the decoder gives this row acts as 0, so the raw value is not
looked at. R96, R65; log 16. -/
def execDecHotr (_sel : Nat) (s : State) : Host.Outcome State Fault Refusal := readView hotrView s

end Sys2Proof.Machine
end

