-- ==== Sys2Proof/Machine/Dispatch.lean ====
section
/-! DEFINITION. The dispatch: one arm per operation of the operation table. R98. -/

namespace Sys2Proof.Machine

def exec (i : Instr) (s : State) : Host.Outcome State Fault Refusal :=
  match i with
  | .init => Sys2Proof.Machine.execInit s
  | .acq b0 b1 b2 b3 => Sys2Proof.Machine.execAcq b0 b1 b2 b3 s
  | .decFault => Sys2Proof.Machine.execDecFault s
  | .decFrac => Sys2Proof.Machine.execDecFrac s
  | .decCold => Sys2Proof.Machine.execDecCold s
  | .decHotu => Sys2Proof.Machine.execDecHotu s
  | .decHotr sel => Sys2Proof.Machine.execDecHotr sel s

end Sys2Proof.Machine
end

