-- ==== Sys2Proof/Machine/StepWith.lean ====
section
/-! DEFINITION. One step of a run, and the machine, at any selector width: SEL_W is an argument of the
model (R10, R64, D4; log 5). -/

namespace Sys2Proof.Machine

/-- One step at a selector width. With no input left nothing happens (R113, R123, R133; log 6); a reset is
applied (R130); a transaction is decoded at that width and its operation performed whole (R52), or
refused by name where the boundary has no such transaction (log 8). -/
def stepWith (selW : Nat) (s : State) : Host.Outcome State Fault Refusal :=
  match nextInput s with
  | none => .next s
  | some (.rst, s') => .next (applyReset s')
  | some (.issue r, s') =>
    match decode selW r with
    | .ok i => exec i s'
    | .error why => .refused (.malformedTransaction why)

/-- The machine whose selector has `selW` bits. `Sys2Proof.core` is the one at the default width. R10, R64. -/
def machineAt (selW : Nat) : Host.Core :=
  { State := State, Fault := Fault, Refusal := Refusal, step := stepWith selW, reset := State.reset }

end Sys2Proof.Machine
end

