-- ==== Sys2Proof/Machine/Step.lean ====
section
/-! DEFINITION. One step of a run at the default selector width. -/

namespace Sys2Proof.Machine

/-- One step at the default of SEL_W. R10; log 5. -/
def step (s : State) : Host.Outcome State Fault Refusal := stepWith Config.selW s

/-- The state whose very next step performs the operation of a table row with operand bits `w`: the host
issues that transaction next. Nothing else changes; log 7. -/
def State.withFetchWord (s : State) (nbits w : Nat) : State :=
  s.submitFirst (.issue (requestOfTableWord Config.selW nbits w))

end Sys2Proof.Machine
end

