-- ==== Sys2Proof/Machine/Instances.lean ====
section
/-! DEFINITION. Several instances of the block: independent copies that share no state (R43, R121). -/

namespace Sys2Proof.Machine

/-- One step of the instance numbered `k` of a list of instances. R43, R121, R138.
DESIGN CHOICE (log 14), since the spec defines a run and a refusal for one block only: an absent instance
has nothing to do, and where the instance's own step is refused the joint step is refused, so the list,
the other copies in it too, has no later state. Safe: no claim about such a joint run can be proved. -/
def stepAt (selW : Nat) (k : Nat) (blocks : List State) : Host.Outcome (List State) Fault Refusal :=
  match blocks[k]? with
  | none => .next blocks
  | some s =>
    match stepWith selW s with
    | .next s' => .next (blocks.set k s')
    | .fault e => .fault e
    | .refused e => .refused e

end Sys2Proof.Machine
end

