-- ==== Sys2Proof/Machine/Ports.lean ====
section
/-! DEFINITION. The two outputs of the port list the spec gives as a naming aid (R61). No meaning and no
step reads them. -/

namespace Sys2Proof.Machine

/-- The output `available`. R61, R35. -/
def State.availablePort (s : State) : Bool := s.available

/-- The output `result` while `sel` is driven: `decode(RAWFRAME, sel)` at every moment, meaningful only
while `available` = 1. R61. -/
def State.resultPort (s : State) (sel : Nat) : Word := decodeField s.rawFrame sel

end Sys2Proof.Machine
end

