-- ==== Sys2Proof/Safety.lean ====
section
/-! DEFINITION. The words claims are stated in: what an input is to the block as the rules give it,
written on the raw transaction and not through the decoder or the meanings; a host that keeps its
duty; the frame a sequence of inputs leaves and the values it returns; and the invariants of a run. -/

namespace Sys2Proof

/-! ## Transactions -/

/-- The transaction has the shape of its call's format: the width of R62 and a value of that width. -/
def Request.shaped (selW : Nat) (r : Request) : Bool :=
  decide (r.width = formatWidth selW r.call) && decide (r.operand < 2 ^ r.width)

/-- The transaction `DEC s` at a selector width. R60, R62. -/
def decRequest (selW s : Nat) : Request := ⟨.decode, selW, s⟩

/-- The transaction `ACQW w`. R75. -/
def acqRequest (w : Word) : Request := ⟨.acquire, Config.frameW, w.toNat⟩

/-- The transaction `INIT`. R60, R62. -/
def initRequest : Request := ⟨.new, 0, 0⟩

end Sys2Proof

namespace Sys2Proof.Machine

/-! ## One input, as the rules give it -/

/-- The frame an input writes into `RAWFRAME`, if it writes one: reset and `INIT` write `RESET_FRAME`, an
acquisition writes its operand, a decode writes nothing. R41, R80, R85, R99, R130; what reset and `INIT`
write is the spec's own choice (D5, D6; log 3, log 13). -/
def Input.writes : Input → Option Word
  | .rst => some Config.resetFrame
  | .issue ⟨.new, _, _⟩ => some Config.resetFrame
  | .issue ⟨.acquire, _, w⟩ => some (BitVec.ofNat 32 w)
  | .issue ⟨.decode, _, _⟩ => none

/-- The values an input returns when it meets the frame `f`. R81, R99, R133, R141. -/
def Input.answers (f : Word) : Input → List Return
  | .rst => []
  | .issue ⟨.new, _, _⟩ => []
  | .issue ⟨.acquire, _, w⟩ => [.available (BitVec.ofNat 32 w != 0)]
  | .issue ⟨.decode, _, s⟩ => [.result (decodeField f s)]

/-- Whether an input that meets the frame `f` is one the host may issue: a transaction of the boundary,
and a decode only of an available frame. R62, R90, R135. -/
def Input.allowed (selW : Nat) (f : Word) : Input → Bool
  | .rst => true
  | .issue ⟨.decode, n, s⟩ => (Request.mk .decode n s).shaped selW && (f != 0)
  | .issue r => r.shaped selW

/-- Whether an input is a decode. -/
def Input.isDec : Input → Bool
  | .issue ⟨.decode, _, _⟩ => true
  | _ => false

/-! ## A sequence of inputs -/

/-- The frame in `RAWFRAME` after a sequence of inputs: the one written last, or the frame there was
when none is written. R52(a), R20; an `INIT` and a reset count as writing `RESET_FRAME` (D5, D6; log 3,
log 13). -/
def latestFrame (start : Word) (ins : List Input) : Word :=
  (ins.filterMap Input.writes).getLast?.getD start

/-- The values a sequence of inputs returns, in order. R52, R133. -/
def transcript : Word → List Input → List Return
  | _, [] => []
  | f, i :: rest => i.answers f ++ transcript (i.writes.getD f) rest

/-- The host keeps its duty through a sequence of inputs. R135, R132. -/
def keepsDuty (selW : Nat) : Word → List Input → Bool
  | _, [] => true
  | f, i :: rest => i.allowed selW f && keepsDuty selW (i.writes.getD f) rest

/-! ## Invariants of a run -/

/-- Every result comes after an acquisition whose answer, the latest one, was `available` = 1: what the
host was told last is carried along. R132, R90. -/
def announced : Bool → List Return → Bool
  | _, [] => true
  | _, .available b :: rest => announced b rest
  | told, .result _ :: rest => told && announced told rest

/-- What the host was told last about availability. R81. -/
def lastTold : Bool → List Return → Bool
  | told, [] => told
  | _, .available b :: rest => lastTold b rest
  | told, .result _ :: rest => lastTold told rest

/-- A result within the ranges of the five views: -2048 to 4096 as a two's-complement integer. R68. -/
def Return.inRange : Return → Bool
  | .available _ => true
  | .result v => decide (-2048 ≤ v.toInt) && decide (v.toInt ≤ 4096)

/-- The invariant of a run: no reading without its announcement, an available frame is one the host was
told of, and every result is in range. -/
structure RunInv (s : State) : Prop where
  readings_announced : announced false s.returned = true
  available_told     : s.available = true → lastTold false s.returned = true
  results_in_range   : ∀ r ∈ s.returned, r.inRange = true

/-- Two frames that agree on every bit but 17, 16 and 3, the bits no decode reads. R26, R27, R30. -/
def agreeOnRead (f g : Word) : Prop :=
  ∀ k, k < 32 → k ≠ 17 → k ≠ 16 → k ≠ 3 → f.getLsbD k = g.getLsbD k

/-- Two states the host cannot tell apart: the same inputs to come, the same values returned, the same
availability, and frames that agree on every bit a decode reads. R39. -/
structure Alike (s t : State) : Prop where
  same_pending   : s.pending = t.pending
  same_returned  : s.returned = t.returned
  same_available : s.available = t.available
  same_read      : agreeOnRead s.rawFrame t.rawFrame

end Sys2Proof.Machine
end

