-- ==== Sys2Proof/Certificates/Slice0/Obligations.lean ====
section
/-! DEFINITION. The statements about the model, for the provers. Each docstring names the rule of the
spec, or the log entry, that the statement rests on. -/

section

open Sys2Proof Sys2Proof.Machine

/-! ## Transactions and operations -/

/-- R62, R63, R76: decoding the encoding of a well-formed operation gives it back, whatever the width of
the selector, with every operand at every value. -/
def Obligations.DecodeOfEncodeGivesBack : Prop :=
  ∀ (selW : Nat) (i : Instr), 3 ≤ selW → i.wf selW = true → decode selW (encode selW i) = .ok i

/-- R62, R63, R76: encoding what a transaction decodes to gives the transaction back, so no two
transactions stand for one operation, and what the decoder answers is well-formed. -/
def Obligations.EncodeOfDecodeGivesBack : Prop :=
  ∀ (selW : Nat) (r : Request) (i : Instr), 3 ≤ selW → decode selW r = .ok i →
    encode selW i = r ∧ i.wf selW = true

/-- R62, R65, R73: exactly the transactions of the three formats are decoded, with every operand value;
every other shape is rejected (log 8). -/
def Obligations.ExactlyTheThreeFormatsDecode : Prop :=
  ∀ (selW : Nat) (r : Request),
    (∃ i, decode selW r = .ok i) ↔
      r.operand < 2 ^ r.width ∧
      ((r.call = .new ∧ r.width = 0) ∨ (r.call = .acquire ∧ r.width = 32) ∨
        (r.call = .decode ∧ r.width = selW))

/-- R63: the selector map, for every selector width, on the whole value of the selector. -/
def Obligations.SelectorMap : Prop :=
  ∀ (selW s : Nat), 3 ≤ selW → s < 2 ^ selW →
    decode selW ⟨.decode, selW, s⟩ = .ok
      (if s = 4 then .decFault else if s = 3 then .decFrac else if s = 2 then .decCold
        else if s = 1 then .decHotu else .decHotr s)

/-- R65, R98: a selector outside 1 to 4 is no error and acts exactly as selector 0. -/
def Obligations.OtherSelectorsActAsZero : Prop :=
  ∀ (selW s : Nat) (st : State), 3 ≤ selW → s < 2 ^ selW → ¬(1 ≤ s ∧ s ≤ 4) →
    ∃ i j, decode selW ⟨.decode, selW, s⟩ = .ok i ∧ decode selW ⟨.decode, selW, 0⟩ = .ok j ∧
      exec i st = exec j st

/-- R62, R74, section 3 of 95_test_vectors.md: transactions written out from their formats decode to the
operations they stand for. -/
def Obligations.WrittenTransactionsDecode : Prop :=
  decodeBytes Config.selW .new [] = .ok .init ∧
  decodeBytes Config.selW .acquire [0x01, 0x98, 0xF6, 0x00] = .ok (.acq 0x01 0x98 0xF6 0x00) ∧
  decodeBytes Config.selW .decode [0x04] = .ok .decFault ∧
  decodeBytes Config.selW .decode [0x03] = .ok .decFrac ∧
  decodeBytes Config.selW .decode [0x02] = .ok .decCold ∧
  decodeBytes Config.selW .decode [0x01] = .ok .decHotu ∧
  decodeBytes Config.selW .decode [0x00] = .ok (.decHotr 0) ∧
  decodeBytes Config.selW .decode [0x84] = .ok (.decHotr 132) ∧
  decodeBytes Config.selW .acquire [0x01, 0x98, 0xF6] = .error (.operandWidth .acquire 24)

/-- R62, R63, R76: what the rows of the operation table decode to, over all their operand bits, in the
numbering of the table (log 7). -/
def Obligations.TableRowsDecode : Prop :=
  decodeTableWord 0 0 = some .init ∧
  (∀ w, w < 2 ^ 32 → decodeTableWord 32 w =
    some (.acq (BitVec.ofNat 8 (w / 2 ^ 24)) (BitVec.ofNat 8 (w / 2 ^ 16))
      (BitVec.ofNat 8 (w / 2 ^ 8)) (BitVec.ofNat 8 w))) ∧
  (∀ s, s < 256 → decodeTableWord 8 s =
    some (if s = 4 then .decFault else if s = 3 then .decFrac else if s = 2 then .decCold
      else if s = 1 then .decHotu else .decHotr s))

/-! ## The frame and its fields -/

/-- R46: the four bytes of an acquisition are assembled with the first byte most significant (the spec
derives it from the word big-endian; log 12). -/
def Obligations.FrameIsBigEndian : Prop :=
  ∀ (b0 b1 b2 b3 : Byte),
    (assembleFrame b0 b1 b2 b3).toNat =
      b0.toNat * 2 ^ 24 + b1.toNat * 2 ^ 16 + b2.toNat * 2 ^ 8 + b3.toNat ∧
    (assembleFrame b0 b1 b2 b3).extractLsb' 24 8 = b0 ∧
    (assembleFrame b0 b1 b2 b3).extractLsb' 16 8 = b1 ∧
    (assembleFrame b0 b1 b2 b3).extractLsb' 8 8 = b2 ∧
    (assembleFrame b0 b1 b2 b3).extractLsb' 0 8 = b3

/-- R23: the ten fields cover all 32 bits of a frame with no overlap: a frame is its fields put together,
and any values of the ten fields are the fields of some frame. -/
def Obligations.FieldsCoverTheFrame : Prop :=
  (∀ f : Word, f = (BitVec.ofBool (hsign f) ++ hmag f ++ BitVec.ofBool (rsv17 f) ++
    BitVec.ofBool (faultAgg f) ++ BitVec.ofBool (csign f) ++ cmag f ++ BitVec.ofBool (rsv3 f) ++
    BitVec.ofBool (fSupply f) ++ BitVec.ofBool (fGround f) ++ BitVec.ofBool (fOpen f) : BitVec 32)) ∧
  (∀ (hs : Bool) (hm : BitVec 13) (r17 fa cs : Bool) (cm : BitVec 11) (r3 f2 f1 f0 : Bool),
    ∃ f : Word, hsign f = hs ∧ hmag f = hm ∧ rsv17 f = r17 ∧ faultAgg f = fa ∧ csign f = cs ∧
      cmag f = cm ∧ rsv3 f = r3 ∧ fSupply f = f2 ∧ fGround f = f1 ∧ fOpen f = f0)

/-- R34, R25, R29: the composite views are the named fields side by side. -/
def Obligations.CompositeViews : Prop :=
  ∀ f : Word,
    hot14 f = (BitVec.ofBool (hsign f) ++ hmag f : BitVec 14) ∧
    hot12 f = (hot14 f).extractLsb' 2 12 ∧
    hfrac f = (hmag f).extractLsb' 0 2 ∧
    cold12 f = (BitVec.ofBool (csign f) ++ cmag f : BitVec 12) ∧
    cfrac f = (cmag f).extractLsb' 0 4 ∧
    fault3 f = (BitVec.ofBool (fSupply f) ++ BitVec.ofBool (fGround f) ++
      BitVec.ofBool (fOpen f) : BitVec 3)

/-- R35, R81: `available` is 1 exactly when some bit of the 32 is set, whichever it is. -/
def Obligations.AvailableIffSomeBitSet : Prop :=
  ∀ s : State, s.available = true ↔ ∃ k, k < 32 ∧ s.rawFrame.getLsbD k = true

/-! ## Loading a frame -/

/-- R80: an acquisition completes in every state and for every four bytes: it stores them bit for bit,
returns `available` of them, and changes nothing else. -/
def Obligations.AcqStoresTheFourBytes : Prop :=
  ∀ (b0 b1 b2 b3 : Byte) (s : State),
    exec (.acq b0 b1 b2 b3) s = .next
      { s with
        block := ⟨(b0 ++ b1 ++ b2 ++ b3 : BitVec 32)⟩
        returned := s.returned ++ [.available (decide ((b0 ++ b1 ++ b2 ++ b3 : BitVec 32) ≠ 0))] }

/-- R81: what an acquisition returns is 0 exactly when all four bytes are zero, and it is `available` of
the state it leaves. -/
def Obligations.AcqAnswersZeroIffAllBytesZero : Prop :=
  ∀ (b0 b1 b2 b3 : Byte) (s : State), ∃ t b,
    exec (.acq b0 b1 b2 b3) s = .next t ∧ t.returned = s.returned ++ [.available b] ∧
    (b = false ↔ b0 = 0 ∧ b1 = 0 ∧ b2 = 0 ∧ b3 = 0) ∧ t.available = b

/-- R82 (an inference the spec marks as its own): an all-zero acquisition is stored like any other, whatever
the register held, and every decode is refused after it (R90, D7; log 4). -/
def Obligations.ZeroAcquisitionIsStored : Prop :=
  ∀ s : State, ∃ t, exec (.acq 0 0 0 0) s = .next t ∧ t.rawFrame = 0x00000000#32 ∧
    t.returned = s.returned ++ [.available false] ∧ t.available = false ∧
    ∀ sel, exec (decOf sel) t = .refused .zeroFrameDecode

/-- R85: `INIT` completes in every state: the register is all zero, nothing is returned and nothing else
changes (the spec's own choice D6; log 13). -/
def Obligations.InitZeroesTheFrame : Prop :=
  ∀ s : State, exec .init s = .next { s with block := ⟨0x00000000#32⟩ } ∧
    State.available { s with block := ⟨0x00000000#32⟩ } = false

/-- R80, and for `INIT` the spec's own choice D6 (log 13): the frame of the two operations that write the register:
no input still to come and no value returned before is changed, and the earlier frame does not matter. -/
def Obligations.LoadsTouchNothingElse : Prop :=
  ∀ (i : Instr) (s t : State), (i = .init ∨ ∃ b0 b1 b2 b3, i = .acq b0 b1 b2 b3) →
    exec i s = .next t →
      t.pending = s.pending ∧ (∃ l, t.returned = s.returned ++ l ∧ l.length ≤ 1) ∧
      ∀ f : Word, exec i { s with block := ⟨f⟩ } = .next t

/-! ## Reading a view -/

/-- R93: `DEC.FAULT` completes on every available frame and returns bits 2 to 0, zero-extended. -/
def Obligations.DecFaultResult : Prop :=
  ∀ s : State, s.rawFrame ≠ 0x00000000#32 →
    exec .decFault s = .next
      { s with returned := s.returned ++ [.result ((s.rawFrame.extractLsb' 0 3).setWidth 32)] }

/-- R94: `DEC.FRAC` completes on every available frame and returns bits 19 to 18, zero-extended. -/
def Obligations.DecFracResult : Prop :=
  ∀ s : State, s.rawFrame ≠ 0x00000000#32 →
    exec .decFrac s = .next
      { s with returned := s.returned ++ [.result ((s.rawFrame.extractLsb' 18 2).setWidth 32)] }

/-- R95: `DEC.COLD` completes on every available frame and returns bits 15 to 4, sign-extended from bit 15. -/
def Obligations.DecColdResult : Prop :=
  ∀ s : State, s.rawFrame ≠ 0x00000000#32 →
    exec .decCold s = .next
      { s with returned := s.returned ++ [.result ((s.rawFrame.extractLsb' 4 12).signExtend 32)] }

/-- R97: `DEC.HOTU` completes on every available frame and returns bits 31 to 20, zero-extended.
That bit 31 is taken as a data bit is the spec's own reading of the source (D8; log 11). -/
def Obligations.DecHotuResult : Prop :=
  ∀ s : State, s.rawFrame ≠ 0x00000000#32 →
    exec .decHotu s = .next
      { s with returned := s.returned ++ [.result ((s.rawFrame.extractLsb' 20 12).setWidth 32)] }

/-- R96: `DEC.HOTR`, with whatever raw selector, completes on every available frame and returns bits 31 to 20
zero-extended, plus 1 when the quarter-degree code in bits 19 to 18 is 2 or 3. That bit 31 is
taken as a data bit and that the increment does not wrap at 12 bits is the spec's own reading (D8, D9; log 11). -/
def Obligations.DecHotrResult : Prop :=
  ∀ (sel : Nat) (s : State), s.rawFrame ≠ 0x00000000#32 →
    exec (.decHotr sel) s = .next
      { s with returned := s.returned ++ [.result
        ((s.rawFrame.extractLsb' 20 12).setWidth 32 +
          (if 2 ≤ (s.rawFrame.extractLsb' 18 2).toNat then 1#32 else 0#32))] }

/-- R90: a `DEC` completes exactly while the frame is available; while `RAWFRAME` is zero every one of them is
refused; and the pure function is total and 0 on the zero frame. The refusal is the spec's rule for the
model (D7; log 4). -/
def Obligations.DecNeedsAnAvailableFrame : Prop :=
  (∀ (sel : Nat) (s : State), (∃ t, exec (decOf sel) s = .next t) ↔ s.available = true) ∧
  (∀ (sel : Nat) (s : State), s.rawFrame = 0x00000000#32 →
    exec (decOf sel) s = .refused .zeroFrameDecode) ∧
  ∀ sel : Nat, decodeField 0x00000000#32 sel = 0x00000000#32

/-- R14, R61, R98: `DEC s` returns the pure function of the register and the selector, which is what the
`result` output shows while `s` is driven. The value of a hot view with bit 31 set is D8 and D9 (log 11). -/
def Obligations.DecAppliesThePureFunction : Prop :=
  ∀ (sel : Nat) (s : State), s.available = true →
    exec (decOf sel) s = .next
      { s with returned := s.returned ++ [.result (decodeField s.rawFrame sel)] } ∧
    s.resultPort sel = decodeField s.rawFrame sel ∧ s.availablePort = true

/-- R99: the frame of the five decode operations: they write no state, and what they return comes after what
was returned before. -/
def Obligations.DecWritesNoState : Prop :=
  ∀ (i : Instr) (s t : State),
    (i = .decFault ∨ i = .decFrac ∨ i = .decCold ∨ i = .decHotu ∨ ∃ sel, i = .decHotr sel) →
    exec i s = .next t →
      t.block = s.block ∧ t.available = s.available ∧ t.pending = s.pending ∧
      ∃ v, t.returned = s.returned ++ [.result v]

/-- R99: the same `DEC` twice returns the identical result twice. -/
def Obligations.DecIsIdempotent : Prop :=
  ∀ (i : Instr) (s t : State),
    (i = .decFault ∨ i = .decFrac ∨ i = .decCold ∨ i = .decHotu ∨ ∃ sel, i = .decHotr sel) →
    exec i s = .next t →
      ∃ u v, exec i t = .next u ∧ u.block = s.block ∧
        u.returned = s.returned ++ [.result v, .result v]

/-- R99 (an inference the spec marks as its own): each result depends only on the bits its rule names. -/
def Obligations.ResultsReadOnlyTheirBits : Prop :=
  ∀ f g : Word,
    ((∀ k, k < 3 → f.getLsbD k = g.getLsbD k) → decodeField f 4 = decodeField g 4) ∧
    ((∀ k, 18 ≤ k → k < 20 → f.getLsbD k = g.getLsbD k) → decodeField f 3 = decodeField g 3) ∧
    ((∀ k, 4 ≤ k → k < 16 → f.getLsbD k = g.getLsbD k) → decodeField f 2 = decodeField g 2) ∧
    ((∀ k, 20 ≤ k → k < 32 → f.getLsbD k = g.getLsbD k) → decodeField f 1 = decodeField g 1) ∧
    ((∀ k, 19 ≤ k → k < 32 → f.getLsbD k = g.getLsbD k) → decodeField f 0 = decodeField g 0)

/-- R26, R30, R39, and R81 for the one-bit frames (inferences the spec marks as its own), and R27: bits 17, 16 and 3
reach no result, and each of them alone makes a frame available. -/
def Obligations.UnreadBitsReachNoResult : Prop :=
  (∀ (f g : Word) (sel : Nat), agreeOnRead f g → decodeField f sel = decodeField g sel) ∧
  availableOf (1#32 <<< 17) = true ∧ availableOf (1#32 <<< 16) = true ∧
  availableOf (1#32 <<< 3) = true

/-- R100 (an inference the spec marks as its own): the relations between the five results of one frame. Those of the
hot results for a frame with bit 31 set rest on the spec's own reading of the source (D8, D9; log 11). -/
def Obligations.ResultRelations : Prop :=
  ∀ f : Word,
    (f.extractLsb' 18 14).toNat = 4 * (decodeField f 1).toNat + (decodeField f 3).toNat ∧
    (2 ≤ (decodeField f 3).toNat → decodeField f 0 = decodeField f 1 + 1#32) ∧
    ((decodeField f 3).toNat < 2 → decodeField f 0 = decodeField f 1) ∧
    (∀ s, ¬(1 ≤ s ∧ s ≤ 4) → decodeField f s = decodeField f 0) ∧
    (decodeField f 2).toNat % 2 ^ 12 = (f.extractLsb' 4 12).toNat ∧
    (decodeField f 4).toNat = f.toNat % 8

/-- R96 (an inference the spec marks as its own): the two other forms the rule gives the rounded hot integer. That both
hold with bit 31 set, and the unwrapped 4096, rest on the spec's own reading of the source (D8, D9; log 11). -/
def Obligations.RoundedFormsAgree : Prop :=
  ∀ f : Word,
    decodeField f 0 =
      (f.extractLsb' 20 12).setWidth 32 + (BitVec.ofBool (f.getLsbD 19)).setWidth 32 ∧
    decodeField f 0 = ((f.extractLsb' 18 14).setWidth 32 + 2#32) >>> 2

/-- R68 (an inference the spec marks as its own; the upper ends of the hot results are D8 and D9, log 11): the
ranges of the five results, read as two's-complement integers, and that every end is reached. -/
def Obligations.ResultRanges : Prop :=
  (∀ f : Word,
    (0 ≤ (decodeField f 4).toInt ∧ (decodeField f 4).toInt ≤ 7) ∧
    (0 ≤ (decodeField f 3).toInt ∧ (decodeField f 3).toInt ≤ 3) ∧
    (-2048 ≤ (decodeField f 2).toInt ∧ (decodeField f 2).toInt ≤ 2047) ∧
    (0 ≤ (decodeField f 1).toInt ∧ (decodeField f 1).toInt ≤ 4095) ∧
    (0 ≤ (decodeField f 0).toInt ∧ (decodeField f 0).toInt ≤ 4096)) ∧
  (∃ f, f ≠ 0 ∧ (decodeField f 2).toInt = -2048) ∧ (∃ f, (decodeField f 2).toInt = 2047) ∧
  (∃ f, (decodeField f 1).toInt = 4095) ∧ ∃ f, (decodeField f 0).toInt = 4096

/-- R92, R93 to R97: the five results as exact integer arithmetic on the frame read as an unsigned number; no
step of the block's arithmetic wraps. The value for a frame with bit 31 set is the spec's own reading of the
source (D8, D9; log 11). -/
def Obligations.ResultsAsIntegers : Prop :=
  ∀ f : Word,
    (decodeField f 4).toInt = f.toNat % 8 ∧
    (decodeField f 3).toInt = f.toNat / 2 ^ 18 % 4 ∧
    (decodeField f 2).toInt =
      (if f.toNat / 16 % 4096 < 2048 then ((f.toNat / 16 % 4096 : Nat) : Int)
        else ((f.toNat / 16 % 4096 : Nat) : Int) - 4096) ∧
    (decodeField f 1).toInt = f.toNat / 2 ^ 20 ∧
    (decodeField f 0).toInt = f.toNat / 2 ^ 20 + f.toNat / 2 ^ 19 % 2

/-- R101, R72: for a frame with bit 31 set the hot results are the unsigned pattern, 2048 or more, and never
negative (the spec's own reading of the source, D8; log 11). -/
def Obligations.HotResultsAreUnsigned : Prop :=
  ∀ f : Word, f.getLsbD 31 = true →
    (2048 ≤ (decodeField f 1).toInt ∧ (decodeField f 1).toInt ≤ 4095) ∧
    (2048 ≤ (decodeField f 0).toInt ∧ (decodeField f 0).toInt ≤ 4096) ∧
    (decodeField f 1).getLsbD 11 = true

/-- R69 (an inference the spec marks as its own): the fault code is a set of three independent flags, open-circuit 1, short-to-ground 2, short-to-supply
4, and all eight values can be returned. -/
def Obligations.FaultCodeIsAFlagSet : Prop :=
  (∀ f : Word, (decodeField f 4).toNat =
    (fOpen f).toNat + 2 * (fGround f).toNat + 4 * (fSupply f).toNat) ∧
  ∀ n, n < 8 → ∃ f : Word, f ≠ 0 ∧ (decodeField f 4).toNat = n

/-! ## One step -/

/-- R52, R60: when the next input is a transaction that decodes to an operation, a step is that operation at
the state with the input taken off, at every selector width and so at the default one (log 5). -/
def Obligations.StepRunsTheDecodedOperation : Prop :=
  (∀ (s : State) (r : Request) (rest : List Input) (i : Instr),
    s.pending = .issue r :: rest → decodeOperation r = .ok i →
      step s = exec i { s with pending := rest }) ∧
  ∀ (selW : Nat) (s : State) (r : Request) (rest : List Input) (i : Instr),
    s.pending = .issue r :: rest → decode selW r = .ok i →
      stepWith selW s = exec i { s with pending := rest }

/-- R10, R64, log 5 (the spec's own choice D4): the selector width is an argument of the machine; the host's machine and
its step are those at the default of 8, which is a legal width. -/
def Obligations.HostMachineIsTheDefaultWidth : Prop :=
  (∀ s : State, step s = stepWith Config.selW s) ∧ core = machineAt Config.selW ∧
  Config.selW = 8 ∧ 3 ≤ Config.selW

/-- R64 (the spec's own choice D4; log 5): the selector width changes no result: the same decode, issued at two widths
that both hold its selector, has the same outcome. -/
def Obligations.SelectorWidthChangesNoResult : Prop :=
  ∀ (v w sel : Nat) (s : State), 3 ≤ v → 3 ≤ w → sel < 2 ^ v → sel < 2 ^ w →
    stepWith v (s.submitFirst (.issue (decRequest v sel))) =
      stepWith w (s.submitFirst (.issue (decRequest w sel)))

/-- Log 7 (the model's choice): placing a table row's bits where a step takes its next input makes the very next
step perform that row's operation, at the state the bits were placed in. -/
def Obligations.PlacedRowRunsNext : Prop :=
  ∀ (s : State) (nbits w : Nat) (i : Instr), decodeTableWord nbits w = some i →
    step (s.withFetchWord nbits w) = exec i s

/-- R113, R123; log 6 (the model's choice of an idle step): with no input left a step changes nothing. -/
def Obligations.IdleStepChangesNothing : Prop :=
  ∀ (selW : Nat) (s : State), s.pending = [] → stepWith selW s = .next s ∧ step s = .next s

/-- The reset event completes in every state; it zeroes the register and does nothing else (the spec's own choice,
R130, D5; log 3, log 13). -/
def Obligations.ResetEventZeroesTheFrame : Prop :=
  ∀ (selW : Nat) (s : State) (rest : List Input), s.pending = .rst :: rest →
    stepWith selW s = .next { s with block := ⟨0x00000000#32⟩, pending := rest } ∧
    step s = .next { s with block := ⟨0x00000000#32⟩, pending := rest }

/-- R131: the complete state after reset, field by field (the spec's own choice, D5; log 3). -/
def Obligations.StateAfterReset : Prop :=
  State.reset.rawFrame = 0x00000000#32 ∧ hsign State.reset.rawFrame = false ∧
  hmag State.reset.rawFrame = 0 ∧ rsv17 State.reset.rawFrame = false ∧
  faultAgg State.reset.rawFrame = false ∧ csign State.reset.rawFrame = false ∧
  cmag State.reset.rawFrame = 0 ∧ rsv3 State.reset.rawFrame = false ∧
  fSupply State.reset.rawFrame = false ∧ fGround State.reset.rawFrame = false ∧
  fOpen State.reset.rawFrame = false ∧ State.reset.available = false

/-- R110, R90, R65: at every selector width no step faults, and a step stops exactly when the next input is a
transaction of no format (log 8) or a decode of an unavailable frame (D7; log 4). -/
def Obligations.WhenAStepStops : Prop :=
  ∀ (selW : Nat) (s : State),
    (∀ e, stepWith selW s ≠ .fault e) ∧
    ((∃ e, stepWith selW s = .refused e) ↔
      ∃ r rest, s.pending = .issue r :: rest ∧
        (r.shaped selW = false ∨ (r.call = .decode ∧ s.available = false)))

/-- R41, R51, R52: at every selector width one allowed input writes the frame it writes and no other, returns what it
returns, and is taken off. What is said of it is written on the raw transaction: an acquisition and a decode as
the rules give them (hot views with bit 31 set: D8, D9; log 11), `INIT` as the spec's own choice D6 (log 13) and
reset as its choice D5 (log 3). -/
def Obligations.StepDoesWhatTheInputSays : Prop :=
  ∀ (selW : Nat) (s : State) (i : Input) (rest : List Input), s.pending = i :: rest →
    i.allowed selW s.rawFrame = true →
      stepWith selW s = .next
        ⟨⟨i.writes.getD s.rawFrame⟩, rest, s.returned ++ i.answers s.rawFrame⟩

/-! ## Runs -/

/-- R52, R133: at every selector width a run in which the host keeps its duty completes, from every state: it leaves the
frame written last and returns, in order, what each operation returns. That `INIT` and reset write the register,
and the value they write, are the spec's own choices D6 and D5 (log 13, log 3); hot views with bit 31 set are D8
and D9 (log 11). -/
def Obligations.DutifulRunReturnsItsTranscript : Prop :=
  ∀ (selW : Nat) (s : State), keepsDuty selW s.rawFrame s.pending = true →
    Host.Core.run (machineAt selW) s.pending.length s = .next
      ⟨⟨latestFrame s.rawFrame s.pending⟩, [], s.returned ++ transcript s.rawFrame s.pending⟩

/-- R52(a): at every selector width a `DEC` returns `decode(v, s)` where `v` is the value written by the latest earlier
acquisition, or the frame there was at the start. That an `INIT` or a reset before it counts as a write is the
spec's own choice D6 (log 13), and the value they write D5 (log 3); hot views with bit 31 set are D8 and D9 (log 11). -/
def Obligations.DecReadsTheLatestFrame : Prop :=
  ∀ (selW : Nat) (s : State) (before : List Input) (sel : Nat),
    s.pending = before ++ [.issue (decRequest selW sel)] →
    keepsDuty selW s.rawFrame s.pending = true →
      ∃ t, Host.Core.run (machineAt selW) s.pending.length s = .next t ∧
        t.rawFrame = latestFrame s.rawFrame before ∧
        t.returned.getLast? = some (.result (decodeField (latestFrame s.rawFrame before) sel))

/-- R52(b): decodes with nothing between them that writes the register all read the same frame (hot views with bit 31
set: D8, D9; log 11). -/
def Obligations.DecodesBetweenLoadsReadOneFrame : Prop :=
  ∀ (selW : Nat) (s : State) (sels : List Nat), s.available = true → (∀ n ∈ sels, n < 2 ^ selW) →
    s.pending = sels.map (fun n => .issue (decRequest selW n)) →
      Host.Core.run (machineAt selW) sels.length s = .next
        ⟨s.block, [], s.returned ++ sels.map (fun n => .result (decodeField s.rawFrame n))⟩

/-- R116 (an inference the spec marks as its own), R132, R75: an acquisition of a nonzero word and then a decode return
1 and the decode of that word, whatever frame and whatever fault bits the register held before: nothing is latched
(hot views with bit 31 set: D8, D9; log 11). -/
def Obligations.AcquireThenDecode : Prop :=
  ∀ (selW : Nat) (s : State) (w : Word) (sel : Nat) (rest : List Input), w ≠ 0 → sel < 2 ^ selW →
    s.pending = .issue (acqRequest w) :: .issue (decRequest selW sel) :: rest →
      Host.Core.run (machineAt selW) 2 s = .next
        ⟨⟨w⟩, rest, s.returned ++ [.available true, .result (decodeField w sel)]⟩

/-- R85, R90: a decode after an acquisition and `INIT`, or after an acquisition and reset, is refused: the frame
is gone (D5, D6, D7; log 3, log 13, log 4). -/
def Obligations.InitDiscardsTheFrame : Prop :=
  ∀ (selW : Nat) (s : State) (w : Word) (sel : Nat) (rest : List Input) (i : Input),
    sel < 2 ^ selW → (i = .rst ∨ i = .issue initRequest) →
    s.pending = .issue (acqRequest w) :: i :: .issue (decRequest selW sel) :: rest →
      Host.Core.run (machineAt selW) 3 s = .refused .zeroFrameDecode

/-- R35, R68, R90, R132: the invariant of a run is kept by every step, at the default selector width and at every
other. That no decode of the zero frame completes is D7 (log 4), that reset and `INIT` zero the register D5 and
D6 (log 3, log 13), and the ranges are an inference the spec marks as its own (hot ends: D8, D9; log 11). -/
def Obligations.StepKeepsRunInv : Prop :=
  (∀ s t : State, RunInv s → step s = .next t → RunInv t) ∧
  ∀ (selW : Nat) (s t : State), RunInv s → stepWith selW s = .next t → RunInv t

/-- R131, R133: the invariant of a run holds right after reset (the reset values are D5, log 1, log 2, log 3). -/
def Obligations.ResetMeetsRunInv : Prop := RunInv State.reset

/-- R39, R26, R30 (inferences the spec marks as its own), R27: a host cannot tell two states apart whose frames
differ only in the bits no decode reads: whatever it issues next, at any selector width, both return the same and
stay alike, or both stop (the stops: D7, log 4, and log 8; what `INIT` and reset write: D6, D5, log 13, log 3). -/
def Obligations.UnreadBitsStayHidden : Prop :=
  ∀ (selW : Nat) (s t : State), Alike s t →
    (∀ s', stepWith selW s = .next s' → ∃ t', stepWith selW t = .next t' ∧ Alike s' t') ∧
    ∀ e, stepWith selW s = .refused e → stepWith selW t = .refused e

/-- R43, R121 (the spec's own choice D18): a step of one instance that completes leaves every other instance as it was
and is that instance's own step. That a refused step of one instance refuses the joint step is the model's choice
(log 14). -/
def Obligations.InstancesAreIndependent : Prop :=
  ∀ (selW k : Nat) (blocks : List State),
    (∀ after, stepAt selW k blocks = .next after →
      after.length = blocks.length ∧ (∀ j, j ≠ k → after[j]? = blocks[j]?) ∧
      ∀ s, blocks[k]? = some s → ∃ s', stepWith selW s = .next s' ∧ after[k]? = some s') ∧
    ∀ e, stepAt selW k blocks = .refused e ↔
      ∃ s, blocks[k]? = some s ∧ stepWith selW s = .refused e

/-- U1, log 4 (an optional setting the model does not run at): under the switch for the literal computation every
view of the zero frame is returned, and is 0. -/
def Obligations.LiteralSwitchReturnsZero : Prop :=
  ∀ (field : FieldSelector) (s : State), s.rawFrame = 0x00000000#32 →
    readViewUnder .literal (viewOf field) s =
      .next { s with returned := s.returned ++ [.result 0x00000000#32] } ∧
    readViewUnder .refuse (viewOf field) s = .refused .zeroFrameDecode

end
end

