-- ==== Sys2Proof/Laws/Decode.lean ====
section
/-! SUPPORT. What the decoder and the encoder can do, said once. -/

namespace Sys2Proof

/-- The decoder accepts exactly the transactions of its formats, and answers the operation of the call. -/
theorem decode_ok_iff (selW : Nat) (r : Request) (i : Instr) :
    decode selW r = .ok i ↔
      r.width = formatWidth selW r.call ∧ r.operand < 2 ^ r.width ∧
        i = operationOf r.call r.operand := by
  unfold decode
  split
  · simp_all
  · split
    · simp_all
    · simp_all
      exact eq_comm

/-- A selector the selector map gives the default row is none of 1 to 4, and conversely. -/
theorem selectField_hotr_iff (s : Nat) : selectField s = .hotr ↔ ¬(1 ≤ s ∧ s ≤ 4) := by
  unfold selectField
  repeat' split
  all_goals simp
  all_goals omega

/-- The default row keeps the raw selector. -/
theorem decOf_default (s : Nat) (h : ¬(1 ≤ s ∧ s ≤ 4)) : decOf s = .decHotr s := by
  simp [decOf, (selectField_hotr_iff s).mpr h]

/-- A selector of at least three bits can be 4. -/
theorem eight_le_two_pow (selW : Nat) (h : 3 ≤ selW) : 8 ≤ 2 ^ selW :=
  Nat.pow_le_pow_right (n := 2) (by decide) h

/-- The format `A` operand fits its 32 bits. -/
theorem acqOperand_lt (b0 b1 b2 b3 : Byte) : acqOperand b0 b1 b2 b3 < 2 ^ 32 := by
  unfold acqOperand
  omega

end Sys2Proof
end

