-- ==== Sys2Proof/Laws/State.lean ====
section
/-! SUPPORT. One lemma per field per update of the state, so that no proof unfolds a record update. -/

namespace Sys2Proof.Machine

@[simp] theorem State.rawFrame_writeFrame (s : State) (f : Word) : (s.writeFrame f).rawFrame = f := rfl
@[simp] theorem State.block_writeFrame (s : State) (f : Word) : (s.writeFrame f).block = ⟨f⟩ := rfl
@[simp] theorem State.pending_writeFrame (s : State) (f : Word) :
    (s.writeFrame f).pending = s.pending := rfl
@[simp] theorem State.returned_writeFrame (s : State) (f : Word) :
    (s.writeFrame f).returned = s.returned := rfl
@[simp] theorem State.available_writeFrame (s : State) (f : Word) :
    (s.writeFrame f).available = availableOf f := rfl

@[simp] theorem State.rawFrame_giveBack (s : State) (r : Return) :
    (s.giveBack r).rawFrame = s.rawFrame := rfl
@[simp] theorem State.block_giveBack (s : State) (r : Return) : (s.giveBack r).block = s.block := rfl
@[simp] theorem State.pending_giveBack (s : State) (r : Return) :
    (s.giveBack r).pending = s.pending := rfl
@[simp] theorem State.returned_giveBack (s : State) (r : Return) :
    (s.giveBack r).returned = s.returned ++ [r] := rfl
@[simp] theorem State.available_giveBack (s : State) (r : Return) :
    (s.giveBack r).available = s.available := rfl

@[simp] theorem State.pending_submitFirst (s : State) (i : Input) :
    (s.submitFirst i).pending = i :: s.pending := rfl
@[simp] theorem State.rawFrame_submitFirst (s : State) (i : Input) :
    (s.submitFirst i).rawFrame = s.rawFrame := rfl
@[simp] theorem State.returned_submitFirst (s : State) (i : Input) :
    (s.submitFirst i).returned = s.returned := rfl
@[simp] theorem State.pending_submit (s : State) (i : Input) :
    (s.submit i).pending = s.pending ++ [i] := rfl
@[simp] theorem State.rawFrame_submit (s : State) (i : Input) :
    (s.submit i).rawFrame = s.rawFrame := rfl
@[simp] theorem State.returned_submit (s : State) (i : Input) :
    (s.submit i).returned = s.returned := rfl

/-- The frame is available exactly when the register is not zero. R35. -/
theorem State.available_iff (s : State) : s.available = true ↔ s.rawFrame ≠ 0x00000000#32 := by
  simp [State.available, availableOf, State.rawFrame]

end Sys2Proof.Machine
end

