-- ==== Sys2Proof/Laws/Ops.lean ====
section
/-! SUPPORT. What each shared operation can do, said once: the loads, the reads and the next input. -/

namespace Sys2Proof.Machine

theorem applyReset_eq (s : State) : applyReset s = { s with block := ⟨0x00000000#32⟩ } := rfl

theorem loadFrame_eq (f : Word) (s : State) :
    loadFrame f s =
      { s with block := ⟨f⟩, returned := s.returned ++ [.available (availableOf f)] } := rfl

/-- A read of an available frame returns the view and changes no state. -/
theorem readView_of_available (view : Word → Word) (s : State) (h : s.available = true) :
    readView view s = .next (s.giveBack (.result (view s.rawFrame))) := by
  simp [readView, readViewUnder, h]

/-- A read of the zero frame is refused. -/
theorem readView_of_unavailable (view : Word → Word) (s : State) (h : s.available = false) :
    readView view s = .refused .zeroFrameDecode := by
  simp [readView, readViewUnder, h, zeroFramePolicy, Config.zeroFrameDec]

/-- All a read can do: an available frame's view is returned and nothing else changes. -/
theorem readView_next (view : Word → Word) (s t : State) :
    readView view s = .next t ↔
      s.available = true ∧ t = s.giveBack (.result (view s.rawFrame)) := by
  cases h : s.available with
  | true => simp [readView_of_available _ _ h, eq_comm]
  | false => simp [readView_of_unavailable _ _ h]

/-- Every decode operation is one read of the view its selector picks. -/
theorem exec_decOf (sel : Nat) (s : State) :
    exec (decOf sel) s = readView (viewOf (selectField sel)) s := by
  unfold decOf
  cases selectField sel <;> rfl

theorem nextInput_nil (s : State) (h : s.pending = []) : nextInput s = none := by
  simp [nextInput, h]

theorem nextInput_cons (s : State) (i : Input) (rest : List Input) (h : s.pending = i :: rest) :
    nextInput s = some (i, { s with pending := rest }) := by
  simp [nextInput, h]

end Sys2Proof.Machine
end

