-- ==== Sys2Proof/Laws/PerInstr.lean ====
section
/-! SUPPORT. Statements made once per operation of the operation table. -/

namespace Sys2Proof.Laws

/-- The encoding of a well-formed operation has the shape of its call's format. R62. -/
def EncodeFits.Statement (i : Instr) : Prop :=
  ∀ selW : Nat, 3 ≤ selW → i.wf selW = true →
    (encode selW i).width = formatWidth selW (encode selW i).call ∧
      (encode selW i).operand < 2 ^ (encode selW i).width

theorem EncodeFits.init : EncodeFits.Statement .init := by
  intro selW _ _
  exact ⟨rfl, by simp [encode]⟩

theorem EncodeFits.acq (b0 b1 b2 b3 : Byte) : EncodeFits.Statement (.acq b0 b1 b2 b3) := by
  intro selW _ _
  exact ⟨rfl, acqOperand_lt b0 b1 b2 b3⟩

theorem EncodeFits.decFault : EncodeFits.Statement .decFault := by
  intro selW h _
  exact ⟨rfl, lt_of_lt_of_le (by simp [encode]) (eight_le_two_pow selW h)⟩

theorem EncodeFits.decFrac : EncodeFits.Statement .decFrac := by
  intro selW h _
  exact ⟨rfl, lt_of_lt_of_le (by simp [encode]) (eight_le_two_pow selW h)⟩

theorem EncodeFits.decCold : EncodeFits.Statement .decCold := by
  intro selW h _
  exact ⟨rfl, lt_of_lt_of_le (by simp [encode]) (eight_le_two_pow selW h)⟩

theorem EncodeFits.decHotu : EncodeFits.Statement .decHotu := by
  intro selW h _
  exact ⟨rfl, lt_of_lt_of_le (by simp [encode]) (eight_le_two_pow selW h)⟩

theorem EncodeFits.decHotr (sel : Nat) : EncodeFits.Statement (.decHotr sel) := by
  intro selW _ hwf
  simp only [Instr.wf, Bool.and_eq_true, decide_eq_true_eq] at hwf
  exact ⟨rfl, hwf.1⟩

end Sys2Proof.Laws
end

