-- ==== Sys2Proof/Laws/Safety.lean ====
section
/-! SUPPORT. Small lemmas of the words claims are stated in, and of a run. -/

namespace Sys2Proof

theorem Request.shaped_iff (selW : Nat) (r : Request) :
    r.shaped selW = true ↔ r.width = formatWidth selW r.call ∧ r.operand < 2 ^ r.width := by
  unfold Request.shaped
  rw [Bool.and_eq_true, decide_eq_true_iff, decide_eq_true_iff]

end Sys2Proof

namespace Sys2Proof.Machine

theorem Input.allowed_rst (selW : Nat) (f : Word) : Input.allowed selW f .rst = true := rfl

theorem Input.allowed_dec_iff (selW : Nat) (f : Word) (n v : Nat) :
    Input.allowed selW f (.issue ⟨.decode, n, v⟩) = true ↔
      (Request.mk .decode n v).shaped selW = true ∧ f ≠ 0x00000000#32 := by
  simp [Input.allowed]

theorem Input.shaped_of_allowed (selW : Nat) (f : Word) (r : Request)
    (h : Input.allowed selW f (.issue r) = true) : r.shaped selW = true := by
  obtain ⟨c, n, v⟩ := r
  cases c with
  | new => exact h
  | acquire => exact h
  | decode => exact ((Input.allowed_dec_iff selW f n v).mp h).1

@[simp] theorem latestFrame_nil (f : Word) : latestFrame f [] = f := rfl

theorem latestFrame_cons (f : Word) (i : Input) (rest : List Input) :
    latestFrame f (i :: rest) = latestFrame (i.writes.getD f) rest := by
  unfold latestFrame
  cases h : i.writes with
  | none => simp [h]
  | some w => simp [h, List.getLast?_cons]

@[simp] theorem transcript_nil (f : Word) : transcript f [] = [] := rfl

@[simp] theorem keepsDuty_nil (selW : Nat) (f : Word) : keepsDuty selW f [] = true := rfl

/-- The host's machine is the one at the default selector width. -/
theorem core_eq_machineAt : core = machineAt Config.selW := rfl

/-- One more step of a run whose first step goes on. -/
theorem run_succ (selW n : Nat) (s t : State) (h : stepWith selW s = .next t) :
    Host.Core.run (machineAt selW) (n + 1) s = Host.Core.run (machineAt selW) n t := by
  have hc : (machineAt selW).step s = .next t := h
  simp only [Host.Core.run, hc]

/-- A run whose first step is refused stops there. -/
theorem run_refused (selW n : Nat) (s : State) (e : Refusal) (h : stepWith selW s = .refused e) :
    Host.Core.run (machineAt selW) (n + 1) s = .refused e := by
  have hc : (machineAt selW).step s = .refused e := h
  simp only [Host.Core.run, hc]

end Sys2Proof.Machine
end

