-- ==== Sys2Proof/Laws/Views.lean ====
section
/-! SUPPORT. The masks, shifts and slices of a frame as arithmetic on the frame read as a number. -/

namespace Sys2Proof.Machine

theorem hotShift_toNat (f : Word) : (hotShift f).toNat = f.toNat / 2 ^ 18 := by
  simp [hotShift, Nat.shiftRight_eq_div_pow]

theorem low3_toNat (f : Word) : (f &&& 0x00000007#32).toNat = f.toNat % 8 := by
  simpa using Nat.and_two_pow_sub_one_eq_mod f.toNat 3

theorem low2_toNat (f : Word) : (f &&& 0x00000003#32).toNat = f.toNat % 4 := by
  simpa using Nat.and_two_pow_sub_one_eq_mod f.toNat 2

theorem assembleFrame_toNat (b0 b1 b2 b3 : Byte) :
    (assembleFrame b0 b1 b2 b3).toNat = acqOperand b0 b1 b2 b3 := by
  have step : ∀ (m : Nat) (x : BitVec m) (b : Byte), (x ++ b).toNat = x.toNat * 2 ^ 8 + b.toNat := by
    intro m x b
    rw [BitVec.toNat_append, Nat.shiftLeft_eq, ← Nat.mul_comm (2 ^ 8),
      ← Nat.two_pow_add_eq_or_of_lt b.isLt]
  unfold assembleFrame acqOperand
  rw [step, step, step]
  ring

end Sys2Proof.Machine
end

