-- ==== Sys2Proof/Tests/Slice0.lean ====
section
/-! SUPPORT. The model's own tests: well-formedness, decoding, one step of each operation, and for every
statement with hypotheses a concrete state and operands that meet them. Expected values are those of
95_test_vectors.md and of the examples inside the rules. -/

namespace Sys2Proof.Tests

open Sys2Proof Sys2Proof.Machine

/-- A block holding the frame `f`, with inputs to come and nothing returned. -/
def holding (f : Word) (ins : List Input) : State := ⟨⟨f⟩, ins, []⟩

/-- The value an outcome returned last, if it went on. -/
def lastReturn : Host.Outcome State Fault Refusal → Option Return
  | .next t => t.returned.getLast?
  | .fault _ => none
  | .refused _ => none

/-- The register after an outcome, if it went on. -/
def frameAfter : Host.Outcome State Fault Refusal → Option Word
  | .next t => some t.rawFrame
  | .fault _ => none
  | .refused _ => none

/-- Why an outcome was refused, if it was. -/
def refusalOf : Host.Outcome State Fault Refusal → Option Refusal
  | .next _ => none
  | .fault _ => none
  | .refused e => some e

/-! ## Well-formedness: each check refuses an ill-formed term (R63, R64) -/

theorem test_wf_default_row_not_one : (Instr.decHotr 1).wf 8 = false := by decide
theorem test_wf_default_row_not_four : (Instr.decHotr 4).wf 8 = false := by decide
theorem test_wf_selector_fits : (Instr.decHotr 256).wf 8 = false := by decide
theorem test_wf_selector_boundaries :
    (Instr.decHotr 0).wf 8 = true ∧ (Instr.decHotr 5).wf 8 = true ∧ (Instr.decHotr 255).wf 8 = true ∧
      (Instr.decHotr 8).wf 3 = false := by decide

/-! ## Decoding: operands written out from the formats of R62 and section 3 of 95_test_vectors.md -/

theorem test_decode_init : decodeBytes Config.selW .new [] = .ok .init := by decide
theorem test_decode_acq :
    decodeBytes Config.selW .acquire [0b00010010, 0b00110100, 0b01010110, 0b01111000] =
      .ok (.acq 0x12 0x34 0x56 0x78) := by decide
theorem test_decode_fault : decodeBytes Config.selW .decode [0b00000100] = .ok .decFault := by decide
theorem test_decode_frac : decodeBytes Config.selW .decode [0b00000011] = .ok .decFrac := by decide
theorem test_decode_cold : decodeBytes Config.selW .decode [0b00000010] = .ok .decCold := by decide
theorem test_decode_hotu : decodeBytes Config.selW .decode [0b00000001] = .ok .decHotu := by decide
theorem test_decode_hotr : decodeBytes Config.selW .decode [0b00000000] = .ok (.decHotr 0) := by decide
theorem test_decode_whole_selector : decodeBytes Config.selW .decode [0b10000100] = .ok (.decHotr 132) := by decide
theorem test_decode_three_bytes_rejected :
    decodeBytes Config.selW .acquire [1, 2, 3] = .error (.operandWidth .acquire 24) := by decide
theorem test_decode_operand_out_of_range_rejected :
    decodeOperation ⟨.decode, 8, 256⟩ = .error (.operandRange .decode 256) := by decide
theorem test_table_acq : decodeTableWord 32 0x0198F600 = some (.acq 0x01 0x98 0xF6 0x00) := by decide
theorem test_table_init : decodeTableWord 0 0 = some .init := by decide
theorem test_acqw : acqw 0x01900000 = .acq 0x01 0x90 0x00 0x00 := by decide

/-! ## One operation: sections 2.1 to 2.3 of 95_test_vectors.md -/

theorem test_acq_byte_order :
    frameAfter (exec (.acq 0x78 0x56 0x34 0x12) State.reset) = some 0x78563412#32 := by decide
theorem test_acq_reserved_bit_available :
    lastReturn (exec (.acq 0x00 0x02 0x00 0x00) State.reset) = some (.available true) := by decide
theorem test_init_discards :
    frameAfter (exec .init (holding 0x01900000#32 [])) = some 0x00000000#32 := by decide
theorem test_init_returns_nothing :
    lastReturn (exec .init (holding 0x01900000#32 [])) = none := by decide
theorem test_fault_ignores_bits_16_and_3 :
    lastReturn (exec .decFault (holding 0x0002000F#32 [])) = some (.result 7#32) := by decide
theorem test_fault_aggregate_not_in_code :
    lastReturn (exec .decFault (holding 0x00010000#32 [])) = some (.result 0#32) := by decide
theorem test_frac_bit_31_set :
    lastReturn (exec .decFrac (holding 0xFFFC0000#32 [])) = some (.result 3#32) := by decide
theorem test_frac_half :
    lastReturn (exec .decFrac (holding 0x01980000#32 [])) = some (.result 2#32) := by decide
theorem test_cold_negative :
    lastReturn (exec .decCold (holding 0x0000F600#32 [])) = some (.result 0xFFFFFF60#32) := by decide
theorem test_cold_most_positive :
    lastReturn (exec .decCold (holding 0x00007FF0#32 [])) = some (.result 2047#32) := by decide
theorem test_hotu_not_sign_extended :
    lastReturn (exec .decHotu (holding 0xFFF00000#32 [])) = some (.result 4095#32) := by decide
theorem test_hotu_truncates :
    lastReturn (exec .decHotu (holding 0x019C0000#32 [])) = some (.result 25#32) := by decide
theorem test_hotr_no_wrap :
    lastReturn (exec (.decHotr 0) (holding 0xFFF80000#32 [])) = some (.result 4096#32) := by decide
theorem test_hotr_quarter_does_not_round :
    lastReturn (exec (.decHotr 255) (holding 0x01940000#32 [])) = some (.result 25#32) := by decide

/-! ## One step -/

/-- Section 2.5: `DEC 0` in the reset state is refused. -/
theorem test_step_reset_dec_refused :
    refusalOf (step (State.reset.withFetchWord 8 0)) = some .zeroFrameDecode := by decide

/-- Section 2.5: after only a reserved bit was acquired, `DEC 0` is accepted. -/
theorem test_step_reserved_bit_dec_accepted :
    lastReturn (step ((holding 0x00020000#32 []).withFetchWord 8 0)) = some (.result 0#32) := by decide

/-- Section 2.1: the first acquisition after reset. -/
theorem test_step_first_acq :
    frameAfter (step (State.reset.withFetchWord 32 0x01900000)) = some 0x01900000#32 := by decide

/-- Section 2.3: selector `0x84` is not 4. -/
theorem test_step_selector_0x84 :
    lastReturn (step ((holding 0x0198F601#32 []).withFetchWord 8 0x84)) = some (.result 26#32) := by
  decide

/-- A transaction of no format is refused by name. -/
theorem test_step_malformed_refused :
    refusalOf (step (holding 0x01900000#32 [.issue ⟨.acquire, 24, 0x010203⟩])) =
      some (.malformedTransaction (.operandWidth .acquire 24)) := by decide

/-! ## Fixed facts: the parameters of R10 -/

theorem test_parameters :
    Config.frameW = 8 * Config.nBytes ∧ Config.resultW = 32 ∧ Config.nSelectors = 5 ∧
      Config.minAcqInterval = 50 ∧ Config.selW = 8 ∧ Config.resetFrame = 0x00000000#32 ∧
      Config.zeroFrameDec = .refuse := by decide

/-! ## Witnesses: for each statement with hypotheses, values that meet them -/

/-- The frame of program P1: 25.50 degrees hot, -10.0 cold, no fault. -/
def warm (ins : List Input) : State := holding 0x0198F600#32 ins

theorem test_witness_DecodeOfEncodeGivesBack :
    3 ≤ 3 ∧ (Instr.decHotr 7).wf 3 = true ∧ (Instr.acq 1 2 3 4).wf 3 = true ∧
      Instr.decFault.wf 3 = true := by decide

theorem test_witness_EncodeOfDecodeGivesBack :
    3 ≤ 3 ∧ decode 3 ⟨.decode, 3, 4⟩ = .ok .decFault ∧ decode 3 ⟨.decode, 3, 7⟩ = .ok (.decHotr 7) ∧
      decode 3 ⟨.acquire, 32, 2 ^ 32 - 1⟩ = .ok (.acq 0xFF 0xFF 0xFF 0xFF) ∧
      decode 3 ⟨.new, 0, 0⟩ = .ok .init := by decide

theorem test_witness_SelectorMap : 3 ≤ 3 ∧ 4 < 2 ^ 3 ∧ 7 < 2 ^ 3 := by decide

theorem test_witness_OtherSelectorsActAsZero :
    3 ≤ 8 ∧ (0 < 2 ^ 8 ∧ ¬(1 ≤ 0 ∧ 0 ≤ 4)) ∧ (5 < 2 ^ 8 ∧ ¬(1 ≤ 5 ∧ 5 ≤ 4)) ∧
      255 < 2 ^ 8 ∧ ¬(1 ≤ 255 ∧ 255 ≤ 4) := by decide

theorem test_witness_TableRowsDecode : 0xFFFFFFFF < 2 ^ 32 ∧ 255 < 256 ∧ 4 < 256 := by decide

theorem test_witness_AvailableIffSomeBitSet :
    (holding 0x80000000#32 []).available = true ∧
      (holding 0x80000000#32 []).rawFrame.getLsbD 31 = true ∧ (holding 1#32 []).available = true ∧
      (holding 0#32 []).available = false := by decide

theorem test_witness_LoadsTouchNothingElse :
    exec .init (warm [.rst]) = .next ⟨⟨0#32⟩, [.rst], []⟩ ∧
      exec (.acq 0 0 0 1) (warm [.rst]) = .next ⟨⟨1#32⟩, [.rst], [.available true]⟩ := ⟨rfl, rfl⟩

theorem test_witness_DecResults : (warm []).rawFrame ≠ 0x00000000#32 ∧
    (holding 0x80000000#32 []).rawFrame ≠ 0x00000000#32 := by decide

theorem test_witness_DecNeedsAnAvailableFrame :
    (holding 0#32 []).rawFrame = 0x00000000#32 ∧ (holding 0#32 []).available = false ∧
      (warm []).available = true := by decide

theorem test_witness_DecAppliesThePureFunction : (warm []).available = true := by decide

theorem test_witness_DecWritesNoState :
    exec .decFault (warm []) = .next ⟨⟨0x0198F600#32⟩, [], [.result 0#32]⟩ ∧
      exec .decFrac (warm []) = .next ⟨⟨0x0198F600#32⟩, [], [.result 2#32]⟩ ∧
      exec .decCold (warm []) = .next ⟨⟨0x0198F600#32⟩, [], [.result 0xFFFFFF60#32]⟩ ∧
      exec .decHotu (warm []) = .next ⟨⟨0x0198F600#32⟩, [], [.result 25#32]⟩ ∧
      exec (.decHotr 5) (warm []) = .next ⟨⟨0x0198F600#32⟩, [], [.result 26#32]⟩ :=
  ⟨rfl, rfl, rfl, rfl, rfl⟩

theorem test_witness_ResultsReadOnlyTheirBits :
    (∀ k < 3, (0x00000005#32).getLsbD k = (0xFFFFFFFD#32).getLsbD k) ∧
      (∀ k < 20, 18 ≤ k → (0x00080000#32).getLsbD k = (0xFFFBFFFF#32).getLsbD k) ∧
      (∀ k < 16, 4 ≤ k → (0x00008000#32).getLsbD k = (0xFFFF800F#32).getLsbD k) ∧
      (∀ k < 32, 20 ≤ k → (0x80000000#32).getLsbD k = (0x800FFFFF#32).getLsbD k) ∧
      (∀ k < 32, 19 ≤ k → (0x80080000#32).getLsbD k = (0x800FFFFF#32).getLsbD k) := by decide

theorem test_witness_UnreadBitsReachNoResult : agreeOnRead 0x00010001#32 0x00020009#32 := by
  intro k hk h17 h16 h3
  have table : ∀ k < 32, k = 17 ∨ k = 16 ∨ k = 3 ∨
      (0x00010001#32).getLsbD k = (0x00020009#32).getLsbD k := by decide
  have := table k hk
  simp_all

theorem test_witness_ResultRelations :
    2 ≤ (decodeField 0x01980000#32 3).toNat ∧ (decodeField 0x01940000#32 3).toNat < 2 ∧
      ¬(1 ≤ 0 ∧ 0 ≤ 4) ∧ ¬(1 ≤ 5 ∧ 5 ≤ 4) := by decide

theorem test_witness_HotResultsAreUnsigned :
    (0x80000000#32).getLsbD 31 = true ∧ (0xFFFFFFFF#32).getLsbD 31 = true := by decide

theorem test_witness_FaultCodeIsAFlagSet : 0 < 8 ∧ 7 < 8 := by decide

theorem test_witness_StepRunsTheDecodedOperation :
    (warm [.issue ⟨.decode, 8, 2⟩]).pending = .issue ⟨.decode, 8, 2⟩ :: [] ∧
      decodeOperation ⟨.decode, 8, 2⟩ = .ok .decCold := by decide

/-- The second clause at another legal width: a 3-bit selector. -/
theorem test_witness_StepRunsTheDecodedOperation_width_3 :
    (warm [.issue ⟨.decode, 3, 7⟩]).pending = .issue ⟨.decode, 3, 7⟩ :: [] ∧
      decode 3 ⟨.decode, 3, 7⟩ = .ok (.decHotr 7) ∧
      lastReturn (stepWith 3 (warm [.issue ⟨.decode, 3, 7⟩])) = some (.result 26#32) := by decide

theorem test_witness_SelectorWidthChangesNoResult :
    3 ≤ 3 ∧ 3 ≤ 8 ∧ (4 < 2 ^ 3 ∧ 4 < 2 ^ 8) ∧ 7 < 2 ^ 3 ∧ 7 < 2 ^ 8 ∧
      lastReturn (stepWith 3 ((holding 5#32 []).submitFirst (.issue (decRequest 3 4)))) =
        some (.result 5#32) := by decide

theorem test_witness_PlacedRowRunsNext :
    decodeTableWord 8 2 = some .decCold ∧ decodeTableWord 0 0 = some .init ∧
      decodeTableWord 32 1 = some (.acq 0 0 0 1) := by decide

theorem test_witness_IdleStepChangesNothing : (warm []).pending = [] := by decide

theorem test_witness_ResetEventZeroesTheFrame : (warm [.rst]).pending = .rst :: [] := by decide

theorem test_witness_WhenAStepStops :
    (Request.mk .acquire 24 0).shaped 8 = false ∧
      (refusalOf (step (holding 1#32 [.issue ⟨.acquire, 24, 0⟩]))).isSome = true ∧
      (Request.mk .decode 8 4).call = .decode ∧
      (holding 0#32 [.issue ⟨.decode, 8, 4⟩]).available = false ∧
      (refusalOf (step (holding 0#32 [.issue ⟨.decode, 8, 4⟩]))).isSome = true ∧
      refusalOf (step (holding 1#32 [.issue ⟨.decode, 8, 4⟩])) = none := by decide

theorem test_witness_StepDoesWhatTheInputSays :
    Input.allowed 8 0#32 .rst = true ∧ Input.allowed 8 0#32 (.issue initRequest) = true ∧
      Input.allowed 8 0#32 (.issue (acqRequest 0#32)) = true ∧
      Input.allowed 8 1#32 (.issue (decRequest 8 255)) = true := by decide

/-- Program P2, and a second reading. -/
def readings : List Input :=
  [.issue (acqRequest 0x00000000#32), .issue (acqRequest 0x06401900#32), .issue (decRequest 8 0),
    .issue (decRequest 8 2), .issue initRequest, .issue (acqRequest 0x01F51A45#32), .issue (decRequest 8 9)]

theorem test_witness_DutifulRunReturnsItsTranscript :
    keepsDuty 8 State.reset.rawFrame readings = true ∧
      transcript State.reset.rawFrame readings =
        [.available false, .available true, .result 100#32, .result 400#32, .available true,
          .result 31#32] := by decide

theorem test_witness_DecReadsTheLatestFrame :
    readings = readings.dropLast ++ [.issue (decRequest 8 9)] ∧
      keepsDuty 8 State.reset.rawFrame readings = true ∧
      latestFrame State.reset.rawFrame readings.dropLast = 0x01F51A45#32 := by decide

theorem test_witness_DecodesBetweenLoadsReadOneFrame :
    (warm ([4, 0, 255].map (fun n => .issue (decRequest 8 n)))).available = true ∧
      (∀ n ∈ [4, 0, 255], n < 2 ^ 8) ∧
      (warm ([4, 0, 255].map (fun n => .issue (decRequest 8 n)))).pending =
        [4, 0, 255].map (fun n => .issue (decRequest 8 n)) := by decide

theorem test_witness_AcquireThenDecode :
    0x80000000#32 ≠ 0 ∧ 255 < 2 ^ 8 ∧
      (holding 0#32 [.issue (acqRequest 0x80000000#32), .issue (decRequest 8 255)]).pending =
        .issue (acqRequest 0x80000000#32) :: .issue (decRequest 8 255) :: [] := by decide

theorem test_witness_InitDiscardsTheFrame :
    1 < 2 ^ 8 ∧
      (holding 0#32 [.issue (acqRequest 0x01900000#32), .issue initRequest, .issue (decRequest 8 1)]).pending =
        .issue (acqRequest 0x01900000#32) :: .issue initRequest :: .issue (decRequest 8 1) :: [] ∧
      (holding 0#32 [.issue (acqRequest 0x01900000#32), .rst, .issue (decRequest 8 1)]).pending =
        .issue (acqRequest 0x01900000#32) :: .rst :: .issue (decRequest 8 1) :: [] := by decide

/-- A state in the middle of a run that meets the invariant and whose next step is a decode. -/
theorem test_witness_StepKeepsRunInv :
    RunInv ⟨⟨0x0198F600#32⟩, [.issue (decRequest 8 2)], [.available true, .result 26#32]⟩ ∧
      step ⟨⟨0x0198F600#32⟩, [.issue (decRequest 8 2)], [.available true, .result 26#32]⟩ =
        .next ⟨⟨0x0198F600#32⟩, [], [.available true, .result 26#32, .result 0xFFFFFF60#32]⟩ :=
  ⟨⟨by decide, by decide, by decide⟩, rfl⟩

theorem test_witness_UnreadBitsStayHidden :
    Alike (holding 0x00010001#32 [.issue (decRequest 8 4)]) (holding 0x00020009#32 [.issue (decRequest 8 4)]) ∧
      lastReturn (step (holding 0x00010001#32 [.issue (decRequest 8 4)])) = some (.result 1#32) :=
  ⟨⟨by decide, by decide, by decide, test_witness_UnreadBitsReachNoResult⟩, by decide⟩

/-- The clause about stopping: two alike states whose next step is refused. -/
theorem test_witness_UnreadBitsStayHidden_refused :
    Alike (holding 0x00010001#32 [.issue ⟨.acquire, 8, 1⟩]) (holding 0x00020009#32 [.issue ⟨.acquire, 8, 1⟩]) ∧
      refusalOf (step (holding 0x00010001#32 [.issue ⟨.acquire, 8, 1⟩])) =
        some (.malformedTransaction (.operandWidth .acquire 8)) :=
  ⟨⟨by decide, by decide, by decide, test_witness_UnreadBitsReachNoResult⟩, by decide⟩

theorem test_witness_InstancesAreIndependent :
    stepAt 8 1 [warm [], warm [.rst]] = .next [warm [], holding 0#32 []] ∧
      [warm [], warm [.rst]][1]? = some (warm [.rst]) := ⟨rfl, rfl⟩

/-- The clause about stopping (log 14): the joint step is refused where the instance's own step is. -/
theorem test_witness_InstancesAreIndependent_refused :
    stepAt 8 1 [warm [], holding 0#32 [.issue (decRequest 8 4)]] = .refused .zeroFrameDecode ∧
      [warm [], holding 0#32 [.issue (decRequest 8 4)]][1]? =
        some (holding 0#32 [.issue (decRequest 8 4)]) := ⟨rfl, rfl⟩

theorem test_witness_LiteralSwitchReturnsZero : (holding 0#32 []).rawFrame = 0x00000000#32 := by decide

end Sys2Proof.Tests
end

section
/-! PROOFS. A `DEC` on an available frame, and the two outputs of R61. -/

namespace Sys2Proof.Machine

/-- R14, R98: on an available frame every `DEC` returns the pure function `decode` and changes no state. -/
theorem exec_decOf_of_available (sel : Nat) (s : State) (h : s.available = true) :
    exec (decOf sel) s = .next (s.giveBack (.result (decodeField s.rawFrame sel))) := by
  rw [exec_decOf, readView_of_available _ _ h, decodeField]

/-- R61: the output `result` is the pure function of the register and the driven selector. -/
@[simp] theorem State.resultPort_eq (s : State) (sel : Nat) :
    s.resultPort sel = decodeField s.rawFrame sel := rfl

/-- R61, R35: the output `available` is the status signal. -/
@[simp] theorem State.availablePort_eq (s : State) : s.availablePort = s.available := rfl

/-- Settles O23: a `DEC` is one read of the view its selector picks, and the outputs are that view and
the status signal. -/
theorem decAppliesThePureFunction : Obligations.DecAppliesThePureFunction := by
  intro sel s h
  refine ⟨?completes, ?result, ?available⟩
  case completes => exact exec_decOf_of_available sel s h
  case result => exact s.resultPort_eq sel
  case available => exact s.availablePort_eq.trans h

end Sys2Proof.Machine
end

section
/-! PROOFS. Slices of a frame: neighbouring slices join into one, and a slice of a slice is a slice.
The ten named fields and the composite views are such slices. -/

namespace Sys2Proof.Machine

/-! ## Slices -/

/-- Two neighbouring slices of a frame, the upper one first, are one slice. -/
theorem slice_append (f : Word) {hi lo m n : Nat} (h : hi = lo + n) :
    f.extractLsb' hi m ++ f.extractLsb' lo n = f.extractLsb' lo (m + n) :=
  BitVec.extractLsb'_append_extractLsb'_eq_extractLsb' h

/-- One bit of a frame is the slice of width 1. -/
theorem ofBool_getLsbD_eq_slice (f : Word) (k : Nat) :
    BitVec.ofBool (f.getLsbD k) = f.extractLsb' k 1 := by
  ext i hi
  obtain rfl : i = 0 := by omega
  simp

/-- A slice of a slice is the slice at the sum of the two offsets. -/
theorem slice_slice (f : Word) {a m b n : Nat} (h : b + n ≤ m) :
    (f.extractLsb' a m).extractLsb' b n = f.extractLsb' (a + b) n := by
  ext i hi
  have hm : b + i < m := by omega
  simp [hm, Nat.add_assoc]

/-- Bit strings of equal widths put side by side determine both parts. -/
theorem append_inj {m n : Nat} {x x' : BitVec m} {y y' : BitVec n} (h : x ++ y = x' ++ y') :
    x = x' ∧ y = y' := by
  obtain rfl : y = y' := by
    have hlow := congrArg (BitVec.extractLsb' 0 n) h
    rwa [BitVec.extractLsb'_append_eq_right, BitVec.extractLsb'_append_eq_right] at hlow
  exact ⟨(BitVec.append_left_inj y).mp h, rfl⟩

/-! ## The ten fields -/

/-- Ten field values put side by side from bit 31 down, as R23 lists them. -/
def frameOfFields (hs : Bool) (hm : BitVec 13) (r17 fa cs : Bool) (cm : BitVec 11)
    (r3 f2 f1 f0 : Bool) : Word :=
  BitVec.ofBool hs ++ hm ++ BitVec.ofBool r17 ++ BitVec.ofBool fa ++ BitVec.ofBool cs ++ cm ++
    BitVec.ofBool r3 ++ BitVec.ofBool f2 ++ BitVec.ofBool f1 ++ BitVec.ofBool f0

/-- R23: a frame is its ten fields put side by side. -/
theorem frameOfFields_of_fields (f : Word) :
    frameOfFields (hsign f) (hmag f) (rsv17 f) (faultAgg f) (csign f) (cmag f) (rsv3 f)
      (fSupply f) (fGround f) (fOpen f) = f := by
  simp only [frameOfFields, hsign, hmag, rsv17, faultAgg, csign, cmag, rsv3, fSupply, fGround,
    fOpen, ofBool_getLsbD_eq_slice]
  simp (disch := rfl) only [slice_append]
  exact BitVec.extractLsb'_eq_self

/-- R23: no two fields overlap, so each field of an assembled frame is the value put there. -/
theorem fields_of_frameOfFields (hs : Bool) (hm : BitVec 13) (r17 fa cs : Bool) (cm : BitVec 11)
    (r3 f2 f1 f0 : Bool) (f : Word) (hf : f = frameOfFields hs hm r17 fa cs cm r3 f2 f1 f0) :
    hsign f = hs ∧ hmag f = hm ∧ rsv17 f = r17 ∧ faultAgg f = fa ∧ csign f = cs ∧
      cmag f = cm ∧ rsv3 f = r3 ∧ fSupply f = f2 ∧ fGround f = f1 ∧ fOpen f = f0 := by
  have h := (frameOfFields_of_fields f).trans hf
  unfold frameOfFields at h
  obtain ⟨h, h0⟩ := append_inj h
  obtain ⟨h, h1⟩ := append_inj h
  obtain ⟨h, h2⟩ := append_inj h
  obtain ⟨h, h3⟩ := append_inj h
  obtain ⟨h, hcm⟩ := append_inj h
  obtain ⟨h, hcs⟩ := append_inj h
  obtain ⟨h, hfa⟩ := append_inj h
  obtain ⟨h, h17⟩ := append_inj h
  obtain ⟨hhs, hhm⟩ := append_inj h
  simp only [BitVec.ofBool_eq_iff_eq] at hhs h17 hfa hcs h3 h2 h1 h0
  exact ⟨hhs, hhm, h17, hfa, hcs, hcm, h3, h2, h1, h0⟩

/-- Settles O9: a frame is its fields joined, and joining any field values gives them back. -/
theorem fieldsCoverTheFrame : Obligations.FieldsCoverTheFrame := by
  refine ⟨?cover, ?noOverlap⟩
  case cover => exact fun f => (frameOfFields_of_fields f).symm
  case noOverlap =>
    exact fun hs hm r17 fa cs cm r3 f2 f1 f0 =>
      ⟨_, fields_of_frameOfFields hs hm r17 fa cs cm r3 f2 f1 f0 _ rfl⟩

/-! ## The composite views -/

/-- R34: `HOT14` is `HSIGN` and `HMAG`. -/
theorem hot14_eq_append (f : Word) : hot14 f = BitVec.ofBool (hsign f) ++ hmag f := by
  simp (disch := rfl) only [hot14, hsign, hmag, ofBool_getLsbD_eq_slice, slice_append]

/-- R34: `COLD12` is `CSIGN` and `CMAG`. -/
theorem cold12_eq_append (f : Word) : cold12 f = BitVec.ofBool (csign f) ++ cmag f := by
  simp (disch := rfl) only [cold12, csign, cmag, ofBool_getLsbD_eq_slice, slice_append]

/-- R34: `FAULT3` is the three fault flags. -/
theorem fault3_eq_append (f : Word) :
    fault3 f = BitVec.ofBool (fSupply f) ++ BitVec.ofBool (fGround f) ++ BitVec.ofBool (fOpen f) := by
  simp (disch := rfl) only [fSupply, fGround, fOpen, fault3, ofBool_getLsbD_eq_slice, slice_append]

/-- Settles O10: the wide views join the fields, and the narrow ones are slices of a wide one. -/
theorem compositeViews : Obligations.CompositeViews := by
  intro f
  refine ⟨hot14_eq_append f, ?hot12, ?hfrac, cold12_eq_append f, ?cfrac, fault3_eq_append f⟩
  case hot12 => simp (disch := decide) only [hot12, hot14, slice_slice]
  case hfrac => simp (disch := decide) only [hfrac, hmag, slice_slice]
  case cfrac => simp (disch := decide) only [cfrac, cmag, slice_slice]

end Sys2Proof.Machine
end

section
/-! PROOFS. The status signal: the register is nonzero exactly when some bit of it is set. -/

namespace Sys2Proof.Machine

/-- A word is nonzero exactly when one of its bits is set. -/
theorem ne_zero_iff_exists_bit (f : Word) :
    f ≠ 0x00000000#32 ↔ ∃ k, k < 32 ∧ f.getLsbD k = true := by
  constructor
  case mp =>
    intro hne
    by_contra! hnone
    exact hne (BitVec.eq_of_getLsbD_eq fun k hk => by simpa using hnone k hk)
  case mpr =>
    rintro ⟨k, -, hset⟩ rfl
    simp at hset

/-- Settles O11: `available` says the register is nonzero, which one set bit decides. -/
theorem availableIffSomeBitSet : Obligations.AvailableIffSomeBitSet := fun s =>
  s.available_iff.trans (ne_zero_iff_exists_bit s.rawFrame)

end Sys2Proof.Machine
end

section
/-! PROOFS. The five views of a frame as arithmetic on the frame read as a number, and their ranges. -/

namespace Sys2Proof.Machine

/-! ## The views as numbers -/

/-- A bit of a word is a binary digit of the number it stands for. -/
theorem getLsbD_toNat (f : Word) (k : Nat) : (f.getLsbD k).toNat = f.toNat / 2 ^ k % 2 := by
  rw [← BitVec.testBit_toNat, Nat.toNat_testBit]

theorem faultView_toNat (f : Word) : (faultView f).toNat = f.toNat % 8 := low3_toNat f

theorem fracView_toNat (f : Word) : (fracView f).toNat = f.toNat / 2 ^ 18 % 4 := by
  rw [fracView, low2_toNat, hotShift_toNat]

theorem hotuView_toNat (f : Word) : (hotuView f).toNat = f.toNat / 2 ^ 20 := by
  rw [hotuView, BitVec.toNat_ushiftRight, hotShift_toNat, Nat.shiftRight_eq_div_pow,
    Nat.div_div_eq_div_mul, ← Nat.pow_add]

/-- R96: rounding adds the upper bit of the quarter-degree code; the 32-bit sum does not wrap. -/
theorem hotrView_toNat (f : Word) :
    (hotrView f).toNat = f.toNat / 2 ^ 20 + f.toNat / 2 ^ 19 % 2 := by
  have hcode : (hotShift f &&& 0x00000003#32).toNat = f.toNat / 2 ^ 18 % 4 := fracView_toNat f
  have hwhole : (hotShift f >>> 2).toNat = f.toNat / 2 ^ 20 := hotuView_toNat f
  have hlt := f.isLt
  simp only [hotrView]
  split
  case isTrue hround =>
    rw [BitVec.le_def, hcode, BitVec.toNat_ofNat] at hround
    rw [BitVec.toNat_add, hwhole, BitVec.toNat_ofNat]
    omega
  case isFalse hround =>
    rw [BitVec.le_def, hcode, BitVec.toNat_ofNat] at hround
    rw [hwhole]
    omega

/-- R95: the masked and shifted cold field before it is sign-extended. -/
theorem coldBits_toNat (f : Word) :
    ((f &&& 0x0000FFF0#32) >>> 4).toNat = f.toNat / 2 ^ 4 % 2 ^ 12 := by
  rw [BitVec.ushiftRight_and_distrib, BitVec.toNat_and, BitVec.toNat_ushiftRight,
    Nat.shiftRight_eq_div_pow]
  exact Nat.and_two_pow_sub_one_eq_mod _ 12

/-- R91: setting the upper 20 bits of a 12-bit pattern takes 4096 from it in two's complement. -/
theorem signFill_toInt (t : Word) (h : t.toNat < 2 ^ 12) :
    (t ||| 0xFFFFF000#32).toInt = t.toNat - 4096 := by
  have hfill : (t ||| 0xFFFFF000#32).toNat = 2 ^ 12 * 0xFFFFF + t.toNat := by
    rw [BitVec.toNat_or, Nat.two_pow_add_eq_or_of_lt h, Nat.or_comm]
    rfl
  rw [BitVec.toInt_eq_toNat_cond, hfill]
  split <;> omega

/-- R95: the cold result is the 12-bit cold field read in two's complement. -/
theorem coldView_toInt (f : Word) :
    (coldView f).toInt =
      if f.toNat / 16 % 4096 < 2048 then ((f.toNat / 16 % 4096 : Nat) : Int)
      else ((f.toNat / 16 % 4096 : Nat) : Int) - 4096 := by
  have hbits := coldBits_toNat f
  have hsign := getLsbD_toNat f 15
  simp only [coldView]
  split
  case isTrue hset =>
    rw [hset, Bool.toNat_true] at hsign
    rw [signFill_toInt _ (by omega), hbits, if_neg (by omega)]
    rfl
  case isFalse hclear =>
    rw [Bool.eq_false_iff.mpr hclear, Bool.toNat_false] at hsign
    rw [BitVec.toInt_eq_toNat_of_lt (by omega), hbits, if_pos (by omega)]
    rfl

/-! ## The ranges -/

/-- R68: a result that is at most 4096 as a number is in range. -/
theorem inRange_of_toNat_le {v : Word} (h : v.toNat ≤ 4096) :
    (Return.result v).inRange = true := by
  have hint : v.toInt = v.toNat := BitVec.toInt_eq_toNat_of_lt (by omega)
  simp only [Return.inRange, hint, Bool.and_eq_true, decide_eq_true_eq]
  omega

theorem coldView_inRange (f : Word) : (Return.result (coldView f)).inRange = true := by
  simp only [Return.inRange, coldView_toInt, Bool.and_eq_true, decide_eq_true_eq]
  split <;> omega

/-- R68: every result of the pure function `decode` is in range. -/
theorem decodeField_inRange (f : Word) (sel : Nat) :
    (Return.result (decodeField f sel)).inRange = true := by
  have hlt := f.isLt
  unfold decodeField
  cases selectField sel with
  | fault => exact inRange_of_toNat_le (by rw [viewOf, faultView_toNat]; omega)
  | frac => exact inRange_of_toNat_le (by rw [viewOf, fracView_toNat]; omega)
  | cold => exact coldView_inRange f
  | hotr => exact inRange_of_toNat_le (by rw [viewOf, hotrView_toNat]; omega)
  | hotu => exact inRange_of_toNat_le (by rw [viewOf, hotuView_toNat]; omega)

/-! ## The fault code -/

/-- Settles O33: the code is the frame's low octal digit, whose binary digits are the flags; the frame
`8 + n` is nonzero and has the code `n`. -/
theorem faultCodeIsAFlagSet : Obligations.FaultCodeIsAFlagSet := by
  have hcode : ∀ f : Word, (decodeField f 4).toNat = f.toNat % 8 := faultView_toNat
  refine ⟨?flags, ?allEight⟩
  case flags =>
    intro f
    rw [hcode, fOpen, fGround, fSupply, getLsbD_toNat, getLsbD_toNat, getLsbD_toNat]
    omega
  case allEight =>
    intro n hn
    have hframe : (BitVec.ofNat 32 (8 + n)).toNat = 8 + n := Nat.mod_eq_of_lt (by omega)
    refine ⟨BitVec.ofNat 32 (8 + n), ?_, ?_⟩
    · intro hzero
      have hnat : 8 + n = 0 := hframe.symm.trans (congrArg BitVec.toNat hzero)
      omega
    · rw [hcode, hframe]
      omega

end Sys2Proof.Machine
end

section
/-! PROOFS. What a step that completes can do, said once, in the words of the raw input. -/

namespace Sys2Proof.Machine

/-- A word's four bytes, assembled, are the word. R46, R75. -/
theorem assembleFrame_bytes (w : Word) :
    assembleFrame (w.extractLsb' 24 8) (w.extractLsb' 16 8) (w.extractLsb' 8 8)
      (w.extractLsb' 0 8) = w := by
  simp (disch := rfl) only [assembleFrame, slice_append]
  exact BitVec.extractLsb'_eq_self

/-- R75, R80: `ACQW w` loads the frame `w`. -/
theorem exec_acqw (w : Word) (s : State) : exec (acqw w) s = .next (loadFrame w s) := by
  rw [acqw, exec, execAcq, assembleFrame_bytes]

/-- Taking an input off does not change whether a frame is available. -/
theorem available_withPending (s : State) (rest : List Input) :
    State.available { s with pending := rest } = s.available := rfl

/-- The state an input leaves when it completes: what it writes, the inputs after it, and the values it
returns after those returned before. -/
def State.afterInput (s : State) (i : Input) (rest : List Input) : State :=
  ⟨⟨i.writes.getD s.rawFrame⟩, rest, s.returned ++ i.answers s.rawFrame⟩

@[simp] theorem State.returned_afterInput (s : State) (i : Input) (rest : List Input) :
    (s.afterInput i rest).returned = s.returned ++ i.answers s.rawFrame := rfl
@[simp] theorem State.available_afterInput (s : State) (i : Input) (rest : List Input) :
    (s.afterInput i rest).available = availableOf (i.writes.getD s.rawFrame) := rfl

/-- What the decoder rejects has not the shape of its call's format; log 8. -/
theorem not_shaped_of_decode_error {selW : Nat} {r : Request} {why : Reject}
    (h : decode selW r = .error why) : r.shaped selW ≠ true := by
  intro hshaped
  obtain ⟨hwidth, hrange⟩ := (Request.shaped_iff selW r).mp hshaped
  have hok := (decode_ok_iff selW r _).mpr ⟨hwidth, hrange, rfl⟩
  rw [h] at hok
  cases hok

/-- The operation of a call completes unless it is a decode of the zero frame, and it leaves what the raw
transaction says. R80, R85, R90, R99. -/
theorem exec_operationOf_next (r : Request) (s t : State) (rest : List Input) :
    exec (operationOf r.call r.operand) { s with pending := rest } = .next t ↔
      (r.call = .decode → s.rawFrame ≠ 0x00000000#32) ∧ t = s.afterInput (.issue r) rest := by
  obtain ⟨call, width, operand⟩ := r
  cases call with
  | new =>
    have hleft : s.afterInput (.issue ⟨.new, width, operand⟩) rest =
        applyReset { s with pending := rest } := by
      simp [State.afterInput, Input.writes, Input.answers, applyReset_eq, Config.resetFrame]
    simp [hleft, operationOf, exec, execInit, eq_comm]
  | acquire =>
    have hleft : s.afterInput (.issue ⟨.acquire, width, operand⟩) rest =
        loadFrame (BitVec.ofNat 32 operand) { s with pending := rest } := rfl
    simp [hleft, operationOf, exec_acqw, eq_comm]
  | decode =>
    have hleft : s.afterInput (.issue ⟨.decode, width, operand⟩) rest =
        State.giveBack { s with pending := rest } (.result (decodeField s.rawFrame operand)) := rfl
    rw [operationOf, exec_decOf, readView_next, available_withPending, s.available_iff, hleft]
    simp [decodeField, State.rawFrame]

/-- A transaction is allowed when it has the shape of its format and is no decode of the zero frame.
R62, R90, R135. -/
theorem Input.allowed_issue_iff (selW : Nat) (f : Word) (r : Request) :
    Input.allowed selW f (.issue r) = true ↔
      r.shaped selW = true ∧ (r.call = .decode → f ≠ 0x00000000#32) := by
  obtain ⟨call, width, operand⟩ := r
  cases call with
  | new => simp [Input.allowed]
  | acquire => simp [Input.allowed]
  | decode => simp [Input.allowed]

/-- With no input left a step changes nothing; log 6. -/
theorem stepWith_nil {s : State} (h : s.pending = []) (selW : Nat) : stepWith selW s = .next s := by
  simp only [stepWith, nextInput_nil s h]

/-- The reset event, when it comes next, is applied. R130. -/
theorem stepWith_rst {s : State} {rest : List Input} (h : s.pending = .rst :: rest) (selW : Nat) :
    stepWith selW s = .next (applyReset { s with pending := rest }) := by
  simp only [stepWith, nextInput_cons s _ rest h]

/-- A transaction that decodes, when it comes next, is its operation. R52. -/
theorem stepWith_issue_ok {s : State} {r : Request} {rest : List Input} {selW : Nat} {op : Instr}
    (h : s.pending = .issue r :: rest) (hdec : decode selW r = .ok op) :
    stepWith selW s = exec op { s with pending := rest } := by
  simp only [stepWith, nextInput_cons s _ rest h, hdec]

/-- A transaction that the decoder rejects, when it comes next, is refused; log 8. -/
theorem stepWith_issue_error {s : State} {r : Request} {rest : List Input} {selW : Nat}
    {why : Reject} (h : s.pending = .issue r :: rest) (hdec : decode selW r = .error why) :
    stepWith selW s = .refused (.malformedTransaction why) := by
  simp only [stepWith, nextInput_cons s _ rest h, hdec]

/-- A step whose next input is `i` completes exactly when `i` is allowed, and leaves what `i` says. -/
theorem stepWith_cons_next (selW : Nat) (s t : State) (i : Input) (rest : List Input)
    (h : s.pending = i :: rest) :
    stepWith selW s = .next t ↔
      i.allowed selW s.rawFrame = true ∧ t = s.afterInput i rest := by
  cases i with
  | rst =>
    have hleft : s.afterInput .rst rest = applyReset { s with pending := rest } := by
      simp [State.afterInput, Input.writes, Input.answers, applyReset_eq, Config.resetFrame]
    simp [stepWith_rst h, hleft, Input.allowed_rst, eq_comm]
  | issue r =>
    rw [Input.allowed_issue_iff]
    cases hdec : decode selW r with
    | ok op =>
      obtain ⟨hwidth, hrange, rfl⟩ := (decode_ok_iff selW r op).mp hdec
      have hshaped : r.shaped selW = true := (Request.shaped_iff selW r).mpr ⟨hwidth, hrange⟩
      rw [stepWith_issue_ok h hdec, exec_operationOf_next]
      simp [hshaped]
    | error why =>
      simp [stepWith_issue_error h hdec, not_shaped_of_decode_error hdec]

/-- All a step that completes can do: nothing when no input is left, or else the next input, which is
allowed. R52, R133. -/
theorem stepWith_next (selW : Nat) (s t : State) :
    stepWith selW s = .next t ↔
      (s.pending = [] ∧ t = s) ∨
      ∃ i rest, s.pending = i :: rest ∧ i.allowed selW s.rawFrame = true ∧
        t = s.afterInput i rest := by
  cases h : s.pending with
  | nil => simpa [stepWith_nil h] using eq_comm
  | cons i rest =>
    rw [stepWith_cons_next selW s t i rest h]
    constructor
    · rintro ⟨hallowed, ht⟩
      exact .inr ⟨i, rest, rfl, hallowed, ht⟩
    · rintro (⟨⟨⟩, -⟩ | ⟨_, _, ⟨⟩, hallowed, ht⟩)
      exact ⟨hallowed, ht⟩

end Sys2Proof.Machine
end

section
/-! PROOFS. The invariant of a run is kept by every input, and so by every step. -/

namespace Sys2Proof.Machine

/-! ## The records of what the host was told -/

/-- What the host was told last is carried from the earlier values into the later ones. -/
theorem lastTold_append (told : Bool) (l m : List Return) :
    lastTold told (l ++ m) = lastTold (lastTold told l) m := by
  induction l generalizing told with
  | nil => rfl
  | cons r rest ih =>
    cases r with
    | available b => exact ih b
    | result v => exact ih told

/-- The later values are judged by what the earlier ones told the host last. -/
theorem announced_append (told : Bool) (l m : List Return) :
    announced told (l ++ m) = (announced told l && announced (lastTold told l) m) := by
  induction l generalizing told with
  | nil => rfl
  | cons r rest ih =>
    cases r with
    | available b => exact ih b
    | result v =>
      simp [announced, lastTold, ih told, Bool.and_assoc]

/-! ## One allowed input -/

/-- R132, R90: what an allowed input returns was announced, given that an available frame was. -/
theorem announced_answers (selW : Nat) (s : State) (i : Input)
    (hallowed : i.allowed selW s.rawFrame = true)
    (htold : s.available = true → lastTold false s.returned = true) :
    announced (lastTold false s.returned) (i.answers s.rawFrame) = true := by
  match i with
  | .rst => rfl
  | .issue ⟨.new, _, _⟩ => rfl
  | .issue ⟨.acquire, _, _⟩ => rfl
  | .issue ⟨.decode, n, v⟩ =>
    have hframe := ((Input.allowed_dec_iff selW s.rawFrame n v).mp hallowed).2
    have hlast := htold (s.available_iff.mpr hframe)
    simp [Input.answers, announced, hlast]

/-- R35, R81: after an input an available frame is still one the host was told of last. -/
theorem lastTold_answers (s : State) (i : Input)
    (htold : s.available = true → lastTold false s.returned = true)
    (havail : availableOf (i.writes.getD s.rawFrame) = true) :
    lastTold (lastTold false s.returned) (i.answers s.rawFrame) = true := by
  match i with
  | .rst => exact absurd (show availableOf Config.resetFrame = true from havail) (by decide)
  | .issue ⟨.new, _, _⟩ =>
    exact absurd (show availableOf Config.resetFrame = true from havail) (by decide)
  | .issue ⟨.acquire, _, _⟩ => exact havail
  | .issue ⟨.decode, _, _⟩ => exact htold havail

/-- R68: what an input returns is in range. -/
theorem answers_inRange (f : Word) (i : Input) : ∀ r ∈ i.answers f, r.inRange = true := by
  match i with
  | .rst => simp [Input.answers]
  | .issue ⟨.new, _, _⟩ => simp [Input.answers]
  | .issue ⟨.acquire, _, _⟩ => simp [Input.answers, Return.inRange]
  | .issue ⟨.decode, _, sel⟩ => simpa [Input.answers] using decodeField_inRange f sel

/-- An allowed input keeps the invariant of a run. -/
theorem RunInv.afterInput {s : State} (hinv : RunInv s) (selW : Nat) (i : Input)
    (rest : List Input) (hallowed : i.allowed selW s.rawFrame = true) :
    RunInv (s.afterInput i rest) := by
  obtain ⟨hann, htold, hrange⟩ := hinv
  refine ⟨?readings, ?told, ?ranges⟩
  case readings =>
    rw [State.returned_afterInput, announced_append, hann,
      announced_answers selW s i hallowed htold]
    rfl
  case told =>
    intro havail
    rw [State.returned_afterInput, lastTold_append]
    exact lastTold_answers s i htold havail
  case ranges =>
    intro r hr
    obtain hold | hnew := List.mem_append.mp hr
    · exact hrange r hold
    · exact answers_inRange s.rawFrame i r hnew

/-! ## Every step -/

/-- At every selector width a step that completes keeps the invariant of a run. -/
theorem RunInv.of_stepWith {s t : State} (hinv : RunInv s) (selW : Nat)
    (hstep : stepWith selW s = .next t) : RunInv t := by
  obtain ⟨-, rfl⟩ | ⟨i, rest, -, hallowed, rfl⟩ := (stepWith_next selW s t).mp hstep
  · exact hinv
  · exact hinv.afterInput selW i rest hallowed

/-- Settles O46: a step that completes is idle or one allowed input, at the default width as at any. -/
theorem stepKeepsRunInv : Obligations.StepKeepsRunInv := by
  refine ⟨?default, ?everyWidth⟩
  case default => exact fun _ _ hinv hstep => hinv.of_stepWith Config.selW hstep
  case everyWidth => exact fun selW _ _ hinv hstep => hinv.of_stepWith selW hstep

end Sys2Proof.Machine
end

section
/-! PROOFS. One step and whole runs: a step is the next input's operation, a run in which the host keeps
its duty returns its transcript, and inputs that write nothing all meet the same frame. -/

namespace Sys2Proof.Machine

/-! ## One step -/

/-- Settles O34: at every width a transaction that decodes is its operation, and the host's step is the
one at the default width. -/
theorem stepRunsTheDecodedOperation : Obligations.StepRunsTheDecodedOperation := by
  refine ⟨?default, ?everyWidth⟩
  case default => exact fun _ _ _ _ hpending hdec => stepWith_issue_ok hpending hdec
  case everyWidth => exact fun _ _ _ _ _ hpending hdec => stepWith_issue_ok hpending hdec

/-- A step whose next input is allowed completes and leaves what that input says. -/
theorem stepWith_of_allowed {selW : Nat} {s : State} {i : Input} {rest : List Input}
    (hpending : s.pending = i :: rest) (hallowed : i.allowed selW s.rawFrame = true) :
    stepWith selW s = .next (s.afterInput i rest) :=
  (stepWith_cons_next selW s _ i rest hpending).mpr ⟨hallowed, rfl⟩

/-- Settles O40: `State.afterInput` is the state the statement writes out. -/
theorem stepDoesWhatTheInputSays : Obligations.StepDoesWhatTheInputSays :=
  fun _ _ _ _ hpending hallowed => stepWith_of_allowed hpending hallowed

/-! ## A run in which the host keeps its duty -/

@[simp] theorem State.pending_afterInput (s : State) (i : Input) (rest : List Input) :
    (s.afterInput i rest).pending = rest := rfl
@[simp] theorem State.rawFrame_afterInput (s : State) (i : Input) (rest : List Input) :
    (s.afterInput i rest).rawFrame = i.writes.getD s.rawFrame := rfl

@[simp] theorem transcript_cons (f : Word) (i : Input) (rest : List Input) :
    transcript f (i :: rest) = i.answers f ++ transcript (i.writes.getD f) rest := rfl

@[simp] theorem keepsDuty_cons (selW : Nat) (f : Word) (i : Input) (rest : List Input) :
    keepsDuty selW f (i :: rest) =
      (i.allowed selW f && keepsDuty selW (i.writes.getD f) rest) := rfl

/-- The state a run leaves that issued the inputs `ins`: the frame written last, no input left, and their
transcript after the values returned before. -/
def State.afterInputs (s : State) (ins : List Input) : State :=
  ⟨⟨latestFrame s.rawFrame ins⟩, [], s.returned ++ transcript s.rawFrame ins⟩

theorem State.afterInputs_nil {s : State} (h : s.pending = []) : s.afterInputs [] = s := by
  obtain ⟨block, pending, returned⟩ := s
  obtain rfl : pending = [] := h
  simp [State.afterInputs, State.rawFrame]

/-- Issuing one input and then the others leaves what issuing them all leaves. -/
theorem State.afterInputs_afterInput (s : State) (i : Input) (rest : List Input) :
    (s.afterInput i rest).afterInputs rest = s.afterInputs (i :: rest) := by
  simp [State.afterInputs, latestFrame_cons]

/-- R52, R133: while the host keeps its duty a run completes, one step to each input. -/
theorem run_of_keepsDuty {selW : Nat} {ins : List Input} {s : State} (hpending : s.pending = ins)
    (hduty : keepsDuty selW s.rawFrame ins = true) :
    Host.Core.run (machineAt selW) ins.length s = .next (s.afterInputs ins) := by
  induction ins generalizing s with
  | nil => rw [State.afterInputs_nil hpending]; rfl
  | cons i rest ih =>
    rw [keepsDuty_cons, Bool.and_eq_true] at hduty
    obtain ⟨hallowed, hrest⟩ := hduty
    calc Host.Core.run (machineAt selW) (rest.length + 1) s
        = Host.Core.run (machineAt selW) rest.length (s.afterInput i rest) :=
          run_succ selW _ s _ (stepWith_of_allowed hpending hallowed)
      _ = .next ((s.afterInput i rest).afterInputs rest) := ih rfl hrest
      _ = .next (s.afterInputs (i :: rest)) := by rw [State.afterInputs_afterInput]

/-- Settles O41, by induction on the inputs to come. -/
theorem dutifulRunReturnsItsTranscript : Obligations.DutifulRunReturnsItsTranscript :=
  fun _ _ hduty => run_of_keepsDuty rfl hduty

/-! ## Inputs that write nothing -/

section WritesNothing

variable {ins : List Input} (hnone : ∀ i ∈ ins, i.writes = none)
include hnone

/-- With no input that writes, the register keeps its frame. R41. -/
theorem latestFrame_of_writes_none (f : Word) : latestFrame f ins = f := by
  have hwritten : ins.filterMap Input.writes = [] := List.filterMap_eq_nil_iff.mpr hnone
  simp [latestFrame, hwritten]

/-- With no input that writes, each input answers for the frame there was. R52(b). -/
theorem transcript_of_writes_none (f : Word) : transcript f ins = ins.flatMap (Input.answers f) := by
  induction ins with
  | nil => rfl
  | cons i rest ih =>
    obtain ⟨hi, hrest⟩ := List.forall_mem_cons.mp hnone
    simp [hi, ih hrest]

/-- With no input that writes, the host's duty is that each input is allowed at the frame there was. -/
theorem keepsDuty_of_writes_none (selW : Nat) (f : Word) :
    keepsDuty selW f ins = ins.all (Input.allowed selW f) := by
  induction ins with
  | nil => rfl
  | cons i rest ih =>
    obtain ⟨hi, hrest⟩ := List.forall_mem_cons.mp hnone
    simp [hi, ih hrest]

end WritesNothing

/-! ## Decodes only -/

/-- The inputs `DEC s` for each selector `s` of a list, in order. -/
def decodes (selW : Nat) (sels : List Nat) : List Input :=
  sels.map fun n => .issue (decRequest selW n)

@[simp] theorem length_decodes (selW : Nat) (sels : List Nat) :
    (decodes selW sels).length = sels.length := List.length_map _

/-- R99: a decode writes nothing. -/
theorem writes_of_mem_decodes {selW : Nat} {sels : List Nat} :
    ∀ i ∈ decodes selW sels, i.writes = none := by
  intro i hi
  obtain ⟨n, -, rfl⟩ := List.mem_map.mp hi
  rfl

/-- R62, R90: a decode of an available frame, with a selector that fits its width, is allowed. -/
theorem allowed_decRequest {selW n : Nat} {f : Word} (hn : n < 2 ^ selW) (hf : f ≠ 0x00000000#32) :
    Input.allowed selW f (.issue (decRequest selW n)) = true :=
  (Input.allowed_issue_iff selW f _).mpr
    ⟨(Request.shaped_iff selW (decRequest selW n)).mpr ⟨rfl, hn⟩, fun _ => hf⟩

theorem keepsDuty_decodes {selW : Nat} {sels : List Nat} {f : Word}
    (hsels : ∀ n ∈ sels, n < 2 ^ selW) (hf : f ≠ 0x00000000#32) :
    keepsDuty selW f (decodes selW sels) = true := by
  rw [keepsDuty_of_writes_none writes_of_mem_decodes, decodes, List.all_map, List.all_eq_true]
  exact fun n hn => allowed_decRequest (hsels n hn) hf

theorem transcript_decodes (selW : Nat) (sels : List Nat) (f : Word) :
    transcript f (decodes selW sels) = sels.map fun n => .result (decodeField f n) := by
  rw [transcript_of_writes_none writes_of_mem_decodes, decodes, List.flatMap_map]
  exact List.flatMap_pure_eq_map _ sels

/-- R52(b): decodes only leave the register as it was and return its decode for each selector. -/
theorem State.afterInputs_decodes (s : State) (selW : Nat) (sels : List Nat) :
    s.afterInputs (decodes selW sels) =
      ⟨s.block, [], s.returned ++ sels.map fun n => .result (decodeField s.rawFrame n)⟩ := by
  rw [State.afterInputs, latestFrame_of_writes_none writes_of_mem_decodes, transcript_decodes]
  rfl

/-- Settles O43: decodes of an available frame keep the host's duty, so their run completes, and none of
them writes. -/
theorem decodesBetweenLoadsReadOneFrame : Obligations.DecodesBetweenLoadsReadOneFrame := by
  intro selW s sels havail hsels hpending
  have hduty := keepsDuty_decodes hsels (s.available_iff.mp havail)
  have hrun := run_of_keepsDuty (ins := decodes selW sels) hpending hduty
  rwa [length_decodes, State.afterInputs_decodes] at hrun

end Sys2Proof.Machine
end

section
/-! PROOFS. The three formats: every operation is the operation of its encoding, every transaction of a
format is the encoding of its operation, so that decoding and encoding undo each other. -/

namespace Sys2Proof.Machine

/-! ## The selector map -/

/-- R63: the operation of a selector, by the selector's whole value. -/
theorem decOf_eq (sel : Nat) :
    decOf sel = if sel = 4 then .decFault else if sel = 3 then .decFrac
      else if sel = 2 then .decCold else if sel = 1 then .decHotu else .decHotr sel := by
  unfold decOf selectField
  split_ifs <;> rfl

/-- R63: the operation of a selector is encoded with that selector as its operand. -/
theorem encode_decOf (selW sel : Nat) : encode selW (decOf sel) = decRequest selW sel := by
  by_cases hnamed : 1 ≤ sel ∧ sel ≤ 4
  case pos =>
    obtain ⟨hlo, hhi⟩ := hnamed
    interval_cases sel <;> rfl
  case neg => rw [decOf_default sel hnamed, encode, decRequest]

/-- R63, R64: the raw selector of a well-formed default row fits its width and is none of 1 to 4. -/
theorem wf_decHotr_iff (selW sel : Nat) :
    (Instr.decHotr sel).wf selW = true ↔ sel < 2 ^ selW ∧ ¬(1 ≤ sel ∧ sel ≤ 4) := by
  rw [Instr.wf, ← Bool.decide_and, ← decide_not, ← Bool.decide_and, decide_eq_true_iff]

/-- R63, R64: the operation of a selector that fits its width is well-formed. -/
theorem wf_decOf {selW sel : Nat} (h : sel < 2 ^ selW) : (decOf sel).wf selW = true := by
  by_cases hnamed : 1 ≤ sel ∧ sel ≤ 4
  case pos =>
    obtain ⟨hlo, hhi⟩ := hnamed
    interval_cases sel <;> rfl
  case neg =>
    rw [decOf_default sel hnamed]
    exact (wf_decHotr_iff selW sel).mpr ⟨h, hnamed⟩

/-! ## The frame of an acquisition -/

/-- R46: the bytes of an assembled frame are the bytes it was assembled from. -/
theorem acqw_assembleFrame (b0 b1 b2 b3 : Byte) :
    acqw (assembleFrame b0 b1 b2 b3) = .acq b0 b1 b2 b3 := by
  have h := assembleFrame_bytes (assembleFrame b0 b1 b2 b3)
  rw [assembleFrame, assembleFrame] at h
  obtain ⟨h, h3⟩ := append_inj h
  obtain ⟨h, h2⟩ := append_inj h
  obtain ⟨h0, h1⟩ := append_inj h
  rw [acqw, assembleFrame, h0, h1, h2, h3]

/-- R62: the format `A` operand is the assembled frame read as a number. -/
theorem ofNat_acqOperand (b0 b1 b2 b3 : Byte) :
    BitVec.ofNat 32 (acqOperand b0 b1 b2 b3) = assembleFrame b0 b1 b2 b3 := by
  rw [← assembleFrame_toNat, BitVec.ofNat_toNat, BitVec.setWidth_eq]

/-- R62, R75: `ACQW w` is encoded with `w` as its operand. -/
theorem encode_acqw (selW : Nat) (w : Word) : encode selW (acqw w) = acqRequest w := by
  rw [acqw, encode, ← assembleFrame_toNat, assembleFrame_bytes, acqRequest]

/-! ## Decoding an encoding -/

/-- The encoding of every well-formed operation has the shape of its call's format. R62. -/
theorem encode_fits (i : Instr) : Laws.EncodeFits.Statement i := by
  cases i with
  | init => exact Laws.EncodeFits.init
  | acq b0 b1 b2 b3 => exact Laws.EncodeFits.acq b0 b1 b2 b3
  | decFault => exact Laws.EncodeFits.decFault
  | decFrac => exact Laws.EncodeFits.decFrac
  | decCold => exact Laws.EncodeFits.decCold
  | decHotu => exact Laws.EncodeFits.decHotu
  | decHotr sel => exact Laws.EncodeFits.decHotr sel

/-- A well-formed operation is the one its encoding's call and operand stand for. -/
theorem operationOf_encode {selW : Nat} {i : Instr} (hwf : i.wf selW = true) :
    operationOf (encode selW i).call (encode selW i).operand = i := by
  cases i with
  | init => rfl
  | acq b0 b1 b2 b3 =>
    rw [encode, operationOf, ofNat_acqOperand, acqw_assembleFrame]
  | decFault => rfl
  | decFrac => rfl
  | decCold => rfl
  | decHotu => rfl
  | decHotr sel =>
    obtain ⟨-, hdefault⟩ := (wf_decHotr_iff selW sel).mp hwf
    exact decOf_default sel hdefault

/-- Settles O1: the encoding has the shape of its format, and stands for the operation encoded. -/
theorem decodeOfEncodeGivesBack : Obligations.DecodeOfEncodeGivesBack := by
  intro selW i hselW hwf
  obtain ⟨hwidth, hrange⟩ := encode_fits i selW hselW hwf
  exact (decode_ok_iff selW _ i).mpr ⟨hwidth, hrange, (operationOf_encode hwf).symm⟩

/-! ## Encoding what was decoded -/

/-- A transaction of one of the formats is the encoding of its operation. -/
theorem encode_operationOf {selW : Nat} {r : Request} (hwidth : r.width = formatWidth selW r.call)
    (hrange : r.operand < 2 ^ r.width) : encode selW (operationOf r.call r.operand) = r := by
  obtain ⟨call, width, operand⟩ := r
  obtain rfl : width = formatWidth selW call := hwidth
  cases call with
  | new =>
    obtain rfl : operand = 0 := Nat.lt_one_iff.mp hrange
    rfl
  | acquire =>
    have hword : (BitVec.ofNat 32 operand).toNat = operand := Nat.mod_eq_of_lt hrange
    rw [operationOf, encode_acqw, acqRequest, hword, formatWidth]
  | decode => exact encode_decOf selW operand

/-- The operation of a transaction of one of the formats is well-formed. -/
theorem wf_operationOf {selW : Nat} {r : Request} (hwidth : r.width = formatWidth selW r.call)
    (hrange : r.operand < 2 ^ r.width) : (operationOf r.call r.operand).wf selW = true := by
  obtain ⟨call, width, operand⟩ := r
  obtain rfl : width = formatWidth selW call := hwidth
  cases call with
  | new => rfl
  | acquire => rfl
  | decode => exact wf_decOf hrange

/-- Settles O2: what decodes has the shape of its format, and such a transaction is encoded back. -/
theorem encodeOfDecodeGivesBack : Obligations.EncodeOfDecodeGivesBack := by
  intro selW r i _ hdec
  obtain ⟨hwidth, hrange, rfl⟩ := (decode_ok_iff selW r i).mp hdec
  exact ⟨encode_operationOf hwidth hrange, wf_operationOf hwidth hrange⟩

/-! ## Which transactions decode -/

/-- A transaction decodes to some operation exactly when it has the shape of its call's format. -/
theorem exists_decode_ok_iff (selW : Nat) (r : Request) :
    (∃ i, decode selW r = .ok i) ↔ r.width = formatWidth selW r.call ∧ r.operand < 2 ^ r.width := by
  simp only [decode_ok_iff, exists_and_left, exists_eq, and_true]

/-- R62: the widths of the formats `N`, `A` and `S`. -/
theorem width_eq_formatWidth_iff (selW width : Nat) (call : Call) :
    width = formatWidth selW call ↔
      (call = .new ∧ width = 0) ∨ (call = .acquire ∧ width = 32) ∨
        (call = .decode ∧ width = selW) := by
  cases call <;> simp [formatWidth, Config.frameW]

/-- Settles O3: what decodes is what has the width of its call's format and a value of that width. -/
theorem exactlyTheThreeFormatsDecode : Obligations.ExactlyTheThreeFormatsDecode := by
  intro selW r
  rw [exists_decode_ok_iff, width_eq_formatWidth_iff, and_comm]

/-! ## What each transaction decodes to -/

/-- R62, R74: a selector that fits its width decodes to its `DEC`. -/
theorem decode_decRequest {selW sel : Nat} (h : sel < 2 ^ selW) :
    decode selW (decRequest selW sel) = .ok (decOf sel) :=
  (decode_ok_iff selW _ _).mpr ⟨rfl, h, rfl⟩

/-- R62, R75: every frame decodes to its `ACQW`. -/
theorem decode_acqRequest (selW : Nat) (w : Word) :
    decode selW (acqRequest w) = .ok (acqw w) := by
  have hword : operationOf .acquire w.toNat = acqw w := by
    rw [operationOf, BitVec.ofNat_toNat, BitVec.setWidth_eq]
  exact (decode_ok_iff selW _ _).mpr ⟨rfl, w.isLt, hword.symm⟩

/-- Settles O4: every selector that fits decodes to its `DEC`, which the map names. -/
theorem selectorMap : Obligations.SelectorMap := by
  intro selW sel _ hfits
  exact (decode_decRequest hfits).trans (congrArg Except.ok (decOf_eq sel))

/-- R65, R98: a selector outside 1 to 4 is executed as selector 0. -/
theorem exec_decOf_default {sel : Nat} (h : ¬(1 ≤ sel ∧ sel ≤ 4)) (s : State) :
    exec (decOf sel) s = exec (decOf 0) s := by
  have hzero : selectField 0 = .hotr := rfl
  rw [exec_decOf, exec_decOf, (selectField_hotr_iff sel).mpr h, hzero]

/-- Settles O5: such a selector and selector 0 both fit, and the map gives both the rounded hot view. -/
theorem otherSelectorsActAsZero : Obligations.OtherSelectorsActAsZero := by
  intro selW sel s _ hfits hother
  exact ⟨decOf sel, decOf 0, decode_decRequest hfits, decode_decRequest (Nat.two_pow_pos selW),
    exec_decOf_default hother s⟩

end Sys2Proof.Machine
end

section
/-! PROOFS. The rows of the operation table: the transaction a row's bits stand for, what it decodes to,
and the step that runs it. -/

namespace Sys2Proof.Machine

/-- A table row stands for the operation its transaction decodes to. R76; log 7. -/
theorem decodeTableWord_eq_some_iff (nbits w : Nat) (i : Instr) :
    decodeTableWord nbits w = some i ↔
      decode Config.selW (requestOfTableWord Config.selW nbits w) = .ok i := by
  unfold decodeTableWord decodeOperation
  split
  case h_1 hok => simp [hok]
  case h_2 herror => simp [herror]

/-- R62, R76: a row of 32 bits is the acquisition of that frame. -/
theorem requestOfTableWord_acq (w : Nat) :
    requestOfTableWord Config.selW 32 w = acqRequest (BitVec.ofNat 32 w) := rfl

/-- R62, R76: a row of 8 bits is the `DEC` with that selector. -/
theorem requestOfTableWord_dec {sel : Nat} (h : sel < 2 ^ 8) :
    requestOfTableWord Config.selW 8 sel = decRequest Config.selW sel := by
  rw [requestOfTableWord, Nat.mod_eq_of_lt h]
  rfl

/-- R11, R62: the bytes of a frame given as a number are its quotients by powers of 256. -/
theorem acqw_ofNat {w : Nat} (h : w < 2 ^ 32) :
    acqw (BitVec.ofNat 32 w) =
      .acq (BitVec.ofNat 8 (w / 2 ^ 24)) (BitVec.ofNat 8 (w / 2 ^ 16))
        (BitVec.ofNat 8 (w / 2 ^ 8)) (BitVec.ofNat 8 w) := by
  simp only [acqw, BitVec.extractLsb', BitVec.toNat_ofNat, Nat.mod_eq_of_lt h,
    Nat.shiftRight_eq_div_pow, Nat.pow_zero, Nat.div_one]

/-- Settles O7: the transaction of each row is the one the row's call and bits name. -/
theorem tableRowsDecode : Obligations.TableRowsDecode := by
  refine ⟨rfl, ?acq, ?dec⟩
  case acq =>
    intro w hw
    rw [decodeTableWord_eq_some_iff, requestOfTableWord_acq, decode_acqRequest, acqw_ofNat hw]
  case dec =>
    intro sel hsel
    rw [decodeTableWord_eq_some_iff, requestOfTableWord_dec hsel, decode_decRequest hsel, decOf_eq]

/-- Settles O35: the placed transaction is the next input, and taking it off leaves the state it was
placed in. -/
theorem placedRowRunsNext : Obligations.PlacedRowRunsNext := by
  intro s nbits w i hrow
  exact stepWith_issue_ok (State.pending_submitFirst s _)
    ((decodeTableWord_eq_some_iff nbits w i).mp hrow)

end Sys2Proof.Machine
end

section
/-! PROOFS. The acquisition: the frame it stores, the `available` it returns, and when that is 0. -/

namespace Sys2Proof.Machine

/-! ## When a frame is available -/

/-- R35: `available` of a frame, as the comparison R80 writes. -/
theorem availableOf_eq_decide (f : Word) : availableOf f = decide (f ≠ 0) := by
  rw [decide_not]
  rfl

/-- R35, R81: the all-zero frame is the one that is not available. -/
theorem availableOf_eq_false_iff (f : Word) : availableOf f = false ↔ f = 0 := by
  rw [availableOf_eq_decide, decide_eq_false_iff_not, not_not]

/-- R46: two frames are equal exactly when the bytes they are assembled from are, since `acqw` gives the
bytes back. -/
theorem assembleFrame_inj {b0 b1 b2 b3 c0 c1 c2 c3 : Byte} :
    assembleFrame b0 b1 b2 b3 = assembleFrame c0 c1 c2 c3 ↔
      b0 = c0 ∧ b1 = c1 ∧ b2 = c2 ∧ b3 = c3 := by
  constructor
  case mp =>
    intro h
    have hacq := congrArg acqw h
    rwa [acqw_assembleFrame, acqw_assembleFrame, Instr.acq.injEq] at hacq
  case mpr =>
    rintro ⟨rfl, rfl, rfl, rfl⟩
    rfl

/-- R46, R81: a frame is all zero exactly when the four bytes it is assembled from are. -/
theorem assembleFrame_eq_zero_iff (b0 b1 b2 b3 : Byte) :
    assembleFrame b0 b1 b2 b3 = 0 ↔ b0 = 0 ∧ b1 = 0 ∧ b2 = 0 ∧ b3 = 0 := by
  have hzero : (0 : Word) = assembleFrame 0 0 0 0 := rfl
  rw [hzero, assembleFrame_inj]

/-! ## What an acquisition does -/

/-- R80: an acquisition loads the frame of its four bytes. -/
theorem exec_acq (b0 b1 b2 b3 : Byte) (s : State) :
    exec (.acq b0 b1 b2 b3) s = .next (loadFrame (assembleFrame b0 b1 b2 b3) s) := rfl

@[simp] theorem State.returned_loadFrame (f : Word) (s : State) :
    (loadFrame f s).returned = s.returned ++ [.available (availableOf f)] := rfl
@[simp] theorem State.available_loadFrame (f : Word) (s : State) :
    (loadFrame f s).available = availableOf f := rfl

/-- Settles O13: the acquisition returns `available` of the frame it loads, which is 0 for the all-zero
frame alone. -/
theorem acqAnswersZeroIffAllBytesZero : Obligations.AcqAnswersZeroIffAllBytesZero := by
  intro b0 b1 b2 b3 s
  have hzero := (availableOf_eq_false_iff _).trans (assembleFrame_eq_zero_iff b0 b1 b2 b3)
  exact ⟨_, _, exec_acq b0 b1 b2 b3 s, State.returned_loadFrame _ s, hzero,
    State.available_loadFrame _ s⟩

/-- Settles O12: the acquisition loads the assembled frame, and a load changes the register and the
returned values only. -/
theorem acqStoresTheFourBytes : Obligations.AcqStoresTheFourBytes := by
  intro b0 b1 b2 b3 s
  rw [exec_acq, loadFrame_eq, availableOf_eq_decide, assembleFrame]

end Sys2Proof.Machine
end

section
/-! PROOFS. The fault, fraction and cold views as slices of the frame, and the value a `DEC` of an
available frame returns. -/

namespace Sys2Proof.Machine

/-! ## Views as slices -/

/-- A zero-extended slice of a frame is the frame's digits from `lo` up, read as a number. -/
theorem setWidth_slice_toNat (f : Word) (lo n : Nat) (h : n ≤ 32) :
    ((f.extractLsb' lo n).setWidth 32).toNat = f.toNat / 2 ^ lo % 2 ^ n := by
  rw [BitVec.toNat_setWidth_of_le h, BitVec.extractLsb'_toNat, Nat.shiftRight_eq_div_pow]

/-- R93: the mask `0x00000007` keeps bits 2 to 0. -/
theorem faultView_eq_slice (f : Word) : faultView f = (f.extractLsb' 0 3).setWidth 32 := by
  apply BitVec.eq_of_toNat_eq
  rw [setWidth_slice_toNat f 0 3 (by decide), Nat.pow_zero, Nat.div_one]
  exact faultView_toNat f

/-- R94: the shift by 18 and the mask `0x00000003` keep bits 19 to 18. -/
theorem fracView_eq_slice (f : Word) : fracView f = (f.extractLsb' 18 2).setWidth 32 := by
  apply BitVec.eq_of_toNat_eq
  rw [setWidth_slice_toNat f 18 2 (by decide)]
  exact fracView_toNat f

/-- R95: setting the upper bits by OR when bit 15 is set is the sign extension of bits 15 to 4, since both
are the 12-bit pattern read in two's complement. -/
theorem coldView_eq_slice (f : Word) : coldView f = (f.extractLsb' 4 12).signExtend 32 := by
  apply BitVec.eq_of_toInt_eq
  have hslice : (f.extractLsb' 4 12).toNat = f.toNat / 16 % 4096 := by
    rw [BitVec.extractLsb'_toNat, Nat.shiftRight_eq_div_pow]
  rw [coldView_toInt, BitVec.toInt_signExtend_of_le (by decide), BitVec.toInt_eq_toNat_cond, hslice]
  by_cases hclear : f.toNat / 16 % 4096 < 2048
  case pos => rw [if_pos hclear, if_pos (by omega)]
  case neg =>
    rw [if_neg hclear, if_neg (by omega)]
    rfl

/-! ## What a `DEC` returns -/

/-- R99: on an available frame `DEC s` returns the value of `decode(RAWFRAME, s)` and changes nothing
else. -/
theorem exec_decOf_of_value {s : State} {sel : Nat} {v : Word} (hne : s.rawFrame ≠ 0x00000000#32)
    (hvalue : decodeField s.rawFrame sel = v) :
    exec (decOf sel) s = .next { s with returned := s.returned ++ [.result v] } := by
  rw [exec_decOf_of_available sel s (s.available_iff.mpr hne), hvalue, State.giveBack]

/-- Settles O17: `DEC.FAULT` is `DEC 4`, whose view is that slice. -/
theorem decFaultResult : Obligations.DecFaultResult :=
  fun s hne => exec_decOf_of_value (sel := 4) hne (faultView_eq_slice s.rawFrame)

/-- Settles O18: `DEC.FRAC` is `DEC 3`, whose view is that slice. -/
theorem decFracResult : Obligations.DecFracResult :=
  fun s hne => exec_decOf_of_value (sel := 3) hne (fracView_eq_slice s.rawFrame)

/-- Settles O19: `DEC.COLD` is `DEC 2`, whose view is that slice, sign-extended. -/
theorem decColdResult : Obligations.DecColdResult :=
  fun s hne => exec_decOf_of_value (sel := 2) hne (coldView_eq_slice s.rawFrame)

end Sys2Proof.Machine
end

section
/-! PROOFS. The five results as integers: the views as numbers, none of which reaches the sign bit but
the cold one. -/

namespace Sys2Proof.Machine

/-- A word below `2 ^ 31` is the same number in two's complement. -/
theorem toInt_of_toNat_eq {v : Word} {n : Nat} (hv : v.toNat = n) (hn : n < 2 ^ 31) :
    v.toInt = n := by
  rw [BitVec.toInt_eq_toNat_of_lt (by omega), hv]

/-- Settles O31: each view's number, which is below `2 ^ 31` for all but the cold one. -/
theorem resultsAsIntegers : Obligations.ResultsAsIntegers := by
  intro f
  have hlt := f.isLt
  refine ⟨?fault, ?frac, coldView_toInt f, ?hotu, ?hotr⟩
  case fault => exact_mod_cast toInt_of_toNat_eq (faultView_toNat f) (by omega)
  case frac => exact_mod_cast toInt_of_toNat_eq (fracView_toNat f) (by omega)
  case hotu => exact_mod_cast toInt_of_toNat_eq (hotuView_toNat f) (by omega)
  case hotr => exact_mod_cast toInt_of_toNat_eq (hotrView_toNat f) (by omega)

end Sys2Proof.Machine
end

section
/-! PROOFS. All a decode operation can do, and that doing it twice returns the same value twice. -/

namespace Sys2Proof.Machine

/-- Each of the five decode operations, the default row with any raw selector, is one read of a view. -/
theorem exec_dec_eq_readView {i : Instr}
    (hdec : i = .decFault ∨ i = .decFrac ∨ i = .decCold ∨ i = .decHotu ∨ ∃ sel, i = .decHotr sel) :
    ∃ view, ∀ s, exec i s = readView view s := by
  obtain rfl | rfl | rfl | rfl | ⟨sel, rfl⟩ := hdec
  · exact ⟨faultView, fun _ => rfl⟩
  · exact ⟨fracView, fun _ => rfl⟩
  · exact ⟨coldView, fun _ => rfl⟩
  · exact ⟨hotuView, fun _ => rfl⟩
  · exact ⟨hotrView, fun _ => rfl⟩

/-- Settles O24: the operation is a read, and a read that completes only gives a result back. -/
theorem decWritesNoState : Obligations.DecWritesNoState := by
  intro i s t hdec hnext
  obtain ⟨view, hread⟩ := exec_dec_eq_readView hdec
  rw [hread, readView_next] at hnext
  obtain ⟨-, rfl⟩ := hnext
  exact ⟨s.block_giveBack _, s.available_giveBack _, s.pending_giveBack _, _, s.returned_giveBack _⟩

/-- Settles O25: giving a result back leaves the frame available and as it was, so the second read
completes and returns the view of the same frame. -/
theorem decIsIdempotent : Obligations.DecIsIdempotent := by
  intro i s t hdec hnext
  obtain ⟨view, hread⟩ := exec_dec_eq_readView hdec
  rw [hread, readView_next] at hnext
  obtain ⟨havail, rfl⟩ := hnext
  have hagain := (hread _).trans
    (readView_of_available view (s.giveBack (.result (view s.rawFrame))) havail)
  refine ⟨_, view s.rawFrame, hagain, ?block, ?returned⟩
  case block => simp only [State.block_giveBack]
  case returned =>
    simp only [State.returned_giveBack, State.rawFrame_giveBack, List.append_assoc,
      List.singleton_append]

end Sys2Proof.Machine
end

section
/-! PROOFS. The idle step: with no input to come nothing happens. -/

namespace Sys2Proof.Machine

/-- Settles O36: the idle step at any width, and so at the default width, which is the host's. -/
theorem idleStepChangesNothing : Obligations.IdleStepChangesNothing := by
  intro selW s hidle
  refine ⟨?everyWidth, ?default⟩
  case everyWidth => exact stepWith_nil hidle selW
  case default => exact stepWith_nil hidle Config.selW

end Sys2Proof.Machine
end

section
/-! PROOFS. An acquisition and then a decode: each step's whole next state, and the run of the two. -/

namespace Sys2Proof.Machine

/-- R75, R80: an acquisition that comes next loads its word and returns whether the word is available. -/
theorem stepWith_acqRequest {s : State} {w : Word} {rest : List Input}
    (hpending : s.pending = .issue (acqRequest w) :: rest) (selW : Nat) :
    stepWith selW s = .next ⟨⟨w⟩, rest, s.returned ++ [.available (availableOf w)]⟩ := by
  rw [stepWith_issue_ok hpending (decode_acqRequest selW w), exec_acqw, loadFrame_eq]

/-- R98, R99: a decode of an available frame that comes next returns `decode(RAWFRAME, s)` and keeps the
frame. -/
theorem stepWith_decRequest {selW sel : Nat} {s : State} {rest : List Input}
    (hpending : s.pending = .issue (decRequest selW sel) :: rest) (hfits : sel < 2 ^ selW)
    (hne : s.rawFrame ≠ 0x00000000#32) :
    stepWith selW s =
      .next ⟨s.block, rest, s.returned ++ [.result (decodeField s.rawFrame sel)]⟩ := by
  rw [stepWith_issue_ok hpending (decode_decRequest hfits)]
  exact exec_decOf_of_value hne rfl

/-- Settles O44: the acquisition overwrites the whole register with a nonzero word, so the decode meets
that word, which is available, and nothing of the frame before. -/
theorem acquireThenDecode : Obligations.AcquireThenDecode := by
  intro selW s w sel rest hne hfits hpending
  have havail : availableOf w = true := by
    rw [availableOf_eq_decide, decide_eq_true hne]
  have hacq := stepWith_acqRequest hpending selW
  rw [havail] at hacq
  have hdec := stepWith_decRequest
    (s := ⟨⟨w⟩, .issue (decRequest selW sel) :: rest, s.returned ++ [.available true]⟩) rfl hfits hne
  calc Host.Core.run (machineAt selW) 2 s
      = Host.Core.run (machineAt selW) 1
          ⟨⟨w⟩, .issue (decRequest selW sel) :: rest, s.returned ++ [.available true]⟩ :=
        run_succ selW 1 _ _ hacq
    _ = .next ⟨⟨w⟩, rest, (s.returned ++ [.available true]) ++ [.result (decodeField w sel)]⟩ :=
        run_succ selW 0 _ _ hdec
    _ = .next ⟨⟨w⟩, rest, s.returned ++ [.available true, .result (decodeField w sel)]⟩ := by
        rw [List.append_assoc, List.singleton_append]

end Sys2Proof.Machine
end

section
/-! PROOFS. The hot views as slices of the frame, the bits each view reads, and the relations and ranges
that follow for the five results. -/

namespace Sys2Proof.Machine

/-! ## The hot views -/

/-- R97: shifting right by 18 and then by 2 keeps bits 31 to 20. -/
theorem hotuView_eq_slice (f : Word) : hotuView f = (f.extractLsb' 20 12).setWidth 32 := by
  apply BitVec.eq_of_toNat_eq
  have hlt := f.isLt
  rw [hotuView_toNat, setWidth_slice_toNat f 20 12 (by decide)]
  omega

/-- R96: the rounded view is the truncated one, plus 1 when the fraction is 2 or 3. -/
theorem hotrView_eq (f : Word) :
    hotrView f = if 2 ≤ (fracView f).toNat then hotuView f + 1#32 else hotuView f := rfl

/-- R96: the rounded view written on the two slices the rule names. -/
theorem hotrView_eq_slice (f : Word) :
    hotrView f = (f.extractLsb' 20 12).setWidth 32 +
      (if 2 ≤ (f.extractLsb' 18 2).toNat then 1#32 else 0#32) := by
  have hfrac : (fracView f).toNat = (f.extractLsb' 18 2).toNat := by
    rw [fracView_eq_slice, BitVec.toNat_setWidth_of_le (by decide)]
  rw [hotrView_eq, hfrac, ← hotuView_eq_slice]
  split
  case isTrue => rfl
  case isFalse => rw [BitVec.add_zero]

/-- R96: rounding adds bit 19, the upper bit of the fraction. -/
theorem hotrView_eq_add_bit (f : Word) :
    hotrView f =
      (f.extractLsb' 20 12).setWidth 32 + (BitVec.ofBool (f.getLsbD 19)).setWidth 32 := by
  apply BitVec.eq_of_toNat_eq
  have hlt := f.isLt
  rw [hotrView_toNat, ofBool_getLsbD_eq_slice, BitVec.toNat_add,
    setWidth_slice_toNat f 20 12 (by decide), setWidth_slice_toNat f 19 1 (by decide)]
  omega

/-- R96: rounding to the nearest is adding half a degree, which is 2 quarters, before the shift. -/
theorem hotrView_eq_add_shift (f : Word) :
    hotrView f = ((f.extractLsb' 18 14).setWidth 32 + 2#32) >>> 2 := by
  apply BitVec.eq_of_toNat_eq
  have hlt := f.isLt
  rw [hotrView_toNat, BitVec.toNat_ushiftRight, Nat.shiftRight_eq_div_pow, BitVec.toNat_add,
    setWidth_slice_toNat f 18 14 (by decide), BitVec.toNat_ofNat]
  omega

/-- Settles O20: `DEC.HOTU` is `DEC 1`, whose view is that slice. -/
theorem decHotuResult : Obligations.DecHotuResult :=
  fun s hne => exec_decOf_of_value (sel := 1) hne (hotuView_eq_slice s.rawFrame)

/-- Settles O21: `DEC.HOTR` does what `DEC 0` does whatever its raw selector, and the view of `DEC 0` is
that sum. -/
theorem decHotrResult : Obligations.DecHotrResult :=
  fun _ s hne => exec_decOf_of_value (sel := 0) hne (hotrView_eq_slice s.rawFrame)

/-- Settles O29: both forms are the rounded view. -/
theorem roundedFormsAgree : Obligations.RoundedFormsAgree :=
  fun f => ⟨hotrView_eq_add_bit f, hotrView_eq_add_shift f⟩

/-! ## The bits each view reads -/

/-- Frames that agree on the bits of a slice have the same slice. -/
theorem slice_congr {f g : Word} {lo n : Nat}
    (h : ∀ k, lo ≤ k → k < lo + n → f.getLsbD k = g.getLsbD k) :
    f.extractLsb' lo n = g.extractLsb' lo n := by
  ext i hi
  simpa using h (lo + i) (by omega) (by omega)

section Congr

variable {f g : Word}

theorem faultView_congr (h : ∀ k, k < 3 → f.getLsbD k = g.getLsbD k) :
    faultView f = faultView g := by
  rw [faultView_eq_slice, faultView_eq_slice, slice_congr fun k _ hk => h k (by omega)]

theorem fracView_congr (h : ∀ k, 18 ≤ k → k < 20 → f.getLsbD k = g.getLsbD k) :
    fracView f = fracView g := by
  rw [fracView_eq_slice, fracView_eq_slice, slice_congr h]

theorem coldView_congr (h : ∀ k, 4 ≤ k → k < 16 → f.getLsbD k = g.getLsbD k) :
    coldView f = coldView g := by
  rw [coldView_eq_slice, coldView_eq_slice, slice_congr h]

theorem hotuView_congr (h : ∀ k, 20 ≤ k → k < 32 → f.getLsbD k = g.getLsbD k) :
    hotuView f = hotuView g := by
  rw [hotuView_eq_slice, hotuView_eq_slice, slice_congr h]

/-- R96, R99: bit 18 decides no rounding. -/
theorem hotrView_congr (h : ∀ k, 19 ≤ k → k < 32 → f.getLsbD k = g.getLsbD k) :
    hotrView f = hotrView g := by
  rw [hotrView_eq_add_bit, hotrView_eq_add_bit, h 19 (by decide) (by decide),
    slice_congr fun k hlo hhi => h k (by omega) hhi]

end Congr

/-- Settles O26: each view is made of the slices its rule names. -/
theorem resultsReadOnlyTheirBits : Obligations.ResultsReadOnlyTheirBits :=
  fun _ _ => ⟨faultView_congr, fracView_congr, coldView_congr, hotuView_congr, hotrView_congr⟩

/-- R26, R27, R30: the bits of the five views avoid 17, 16 and 3. -/
theorem decodeField_congr {f g : Word} (h : agreeOnRead f g) (sel : Nat) :
    decodeField f sel = decodeField g sel := by
  unfold decodeField
  cases selectField sel with
  | fault => exact faultView_congr fun k hk => h k (by omega) (by omega) (by omega) (by omega)
  | frac => exact fracView_congr fun k _ _ => h k (by omega) (by omega) (by omega) (by omega)
  | cold => exact coldView_congr fun k _ _ => h k (by omega) (by omega) (by omega) (by omega)
  | hotr => exact hotrView_congr fun k _ hk => h k hk (by omega) (by omega) (by omega)
  | hotu => exact hotuView_congr fun k _ hk => h k hk (by omega) (by omega) (by omega)

/-- Settles O27: no view reads those bits, and each one-bit frame is nonzero. -/
theorem unreadBitsReachNoResult : Obligations.UnreadBitsReachNoResult :=
  ⟨fun _ _ sel h => decodeField_congr h sel, by decide, by decide, by decide⟩

/-! ## The relations between the results -/

/-- R65, R98: the pure function gives every selector outside 1 to 4 the result of selector 0. -/
theorem decodeField_default {sel : Nat} (h : ¬(1 ≤ sel ∧ sel ≤ 4)) (f : Word) :
    decodeField f sel = decodeField f 0 := by
  have hzero : selectField 0 = .hotr := rfl
  rw [decodeField, decodeField, (selectField_hotr_iff sel).mpr h, hzero]

/-- Cutting a sign-extended pattern back to its width gives it back. -/
theorem setWidth_signExtend_self {m n : Nat} (x : BitVec n) (h : n ≤ m) :
    (x.signExtend m).setWidth n = x := by
  ext i hi
  have hm : i < m := by omega
  simp [BitVec.getElem_signExtend, hi, hm]

/-- R95: the low 12 bits of the cold result are the cold field. -/
theorem coldView_toNat_mod (f : Word) :
    (coldView f).toNat % 2 ^ 12 = (f.extractLsb' 4 12).toNat := by
  rw [← BitVec.toNat_setWidth, coldView_eq_slice, setWidth_signExtend_self _ (by decide)]

/-- R94, R97: the 14-bit hot field is whole degrees and quarters. -/
theorem hot14_toNat (f : Word) :
    (f.extractLsb' 18 14).toNat = 4 * (hotuView f).toNat + (fracView f).toNat := by
  have hlt := f.isLt
  rw [BitVec.extractLsb'_toNat, Nat.shiftRight_eq_div_pow, hotuView_toNat, fracView_toNat]
  omega

/-- Settles O28: each relation is one of the views' own, `DEC 0` to `DEC 4` being the views by name. -/
theorem resultRelations : Obligations.ResultRelations := by
  intro f
  refine ⟨hot14_toNat f, ?roundsUp, ?keeps, fun _ h => decodeField_default h f,
    coldView_toNat_mod f, faultView_toNat f⟩
  case roundsUp => exact fun hcode => (hotrView_eq f).trans (if_pos hcode)
  case keeps => exact fun hcode => (hotrView_eq f).trans (if_neg (Nat.not_le.mpr hcode))

/-! ## The ranges of the results -/

/-- Settles O30: the results as integers are in those ranges, and four frames reach the ends. -/
theorem resultRanges : Obligations.ResultRanges := by
  refine ⟨?ranges, ⟨0x00008000#32, by decide⟩, ⟨0x00007FF0#32, by decide⟩,
    ⟨0xFFF00000#32, by decide⟩, ⟨0xFFF80000#32, by decide⟩⟩
  case ranges =>
    intro f
    obtain ⟨hfault, hfrac, hcold, hhotu, hhotr⟩ := resultsAsIntegers f
    have hlt := f.isLt
    refine ⟨?fault, ?frac, ?cold, ?hotu, ?hotr⟩
    case fault => omega
    case frac => omega
    case cold => rw [hcold]; split <;> omega
    case hotu => omega
    case hotr => omega

/-- R97: bit 11 of the truncated hot result is bit 31 of the frame. -/
theorem hotuView_getLsbD_eleven (f : Word) : (hotuView f).getLsbD 11 = f.getLsbD 31 := by
  rw [hotuView, hotShift, BitVec.getLsbD_ushiftRight, BitVec.getLsbD_ushiftRight]

/-- Settles O32: a frame with bit 31 set is `2 ^ 31` or more, and the hot results are its quotient by
`2 ^ 20`, rounded or not. -/
theorem hotResultsAreUnsigned : Obligations.HotResultsAreUnsigned := by
  intro f hset
  obtain ⟨-, -, -, hhotu, hhotr⟩ := resultsAsIntegers f
  have hbit := getLsbD_toNat f 31
  rw [hset, Bool.toNat_true] at hbit
  have hlt := f.isLt
  refine ⟨?hotu, ?hotr, ?bit⟩
  case hotu => omega
  case hotr => omega
  case bit => exact (hotuView_getLsbD_eleven f).trans hset

end Sys2Proof.Machine
end

section
/-! PROOFS. When a decode and a step are refused, said once: the zero frame, and the transactions of no
format. -/

namespace Sys2Proof.Machine

/-! ## Decodes of the zero frame -/

/-- R35: `available` is 0 exactly while the register is zero. -/
theorem State.available_eq_false_iff (s : State) :
    s.available = false ↔ s.rawFrame = 0x00000000#32 :=
  availableOf_eq_false_iff s.rawFrame

/-- R90: on the zero frame every `DEC` is refused. -/
theorem exec_decOf_of_unavailable (sel : Nat) {s : State} (h : s.available = false) :
    exec (decOf sel) s = .refused .zeroFrameDecode := by
  rw [exec_decOf, readView_of_unavailable _ _ h]

/-- R90: every view of the zero frame is 0. -/
theorem viewOf_zero (field : FieldSelector) : viewOf field 0x00000000#32 = 0x00000000#32 := by
  cases field <;> rfl

/-- Settles O22: a `DEC` is a read of a view, which completes or is refused as the frame is available or
not. -/
theorem decNeedsAnAvailableFrame : Obligations.DecNeedsAnAvailableFrame := by
  refine ⟨?completes, ?refused, fun sel => viewOf_zero (selectField sel)⟩
  case completes =>
    intro sel s
    simp only [exec_decOf, readView_next, exists_and_left, exists_eq, and_true]
  case refused =>
    exact fun sel s hzero => exec_decOf_of_unavailable sel (s.available_eq_false_iff.mpr hzero)

/-- Settles O14: the acquisition loads the zero frame, on which every `DEC` is refused. -/
theorem zeroAcquisitionIsStored : Obligations.ZeroAcquisitionIsStored := by
  intro s
  have hzero : assembleFrame 0 0 0 0 = 0x00000000#32 := rfl
  have hload := exec_acq 0 0 0 0 s
  rw [hzero] at hload
  exact ⟨_, hload, rfl, State.returned_loadFrame _ s, State.available_loadFrame _ s,
    fun sel => exec_decOf_of_unavailable sel (State.available_loadFrame _ s)⟩

/-- U1: under the literal setting a read returns the view in every state. -/
theorem readViewUnder_literal (view : Word → Word) (s : State) :
    readViewUnder .literal view s = .next (s.giveBack (.result (view s.rawFrame))) := by
  unfold readViewUnder
  split <;> rfl

/-- Settles O50: the literal setting returns the view of the zero frame, and the setting `refuse` is the
model's own. -/
theorem literalSwitchReturnsZero : Obligations.LiteralSwitchReturnsZero := by
  intro field s hzero
  refine ⟨?literal, ?refuse⟩
  case literal => rw [readViewUnder_literal, hzero, viewOf_zero, State.giveBack]
  case refuse => exact readView_of_unavailable _ s (s.available_eq_false_iff.mpr hzero)

/-! ## Steps that are refused -/

/-- All a refused read can be: one of the zero frame. R90; log 4. -/
theorem readView_refused (view : Word → Word) (s : State) (e : Refusal) :
    readView view s = .refused e ↔ s.available = false ∧ e = .zeroFrameDecode := by
  cases h : s.available with
  | true => simp [readView_of_available _ _ h]
  | false => simp [readView_of_unavailable _ _ h, eq_comm]

/-- The operation of a call is refused only where it is a decode of the zero frame. R80, R85, R90. -/
theorem exec_operationOf_refused (call : Call) (operand : Nat) (s : State) (e : Refusal) :
    exec (operationOf call operand) s = .refused e ↔
      call = .decode ∧ s.available = false ∧ e = .zeroFrameDecode := by
  cases call with
  | new => simp [operationOf, exec, execInit]
  | acquire => simp [operationOf, exec_acqw]
  | decode => simp [operationOf, exec_decOf, readView_refused]

/-- What the decoder accepts has the shape of its call's format. R62. -/
theorem shaped_of_decode_ok {selW : Nat} {r : Request} {op : Instr} (h : decode selW r = .ok op) :
    r.shaped selW = true := by
  obtain ⟨hwidth, hrange, -⟩ := (decode_ok_iff selW r op).mp h
  exact (Request.shaped_iff selW r).mpr ⟨hwidth, hrange⟩

/-- All a refused step can be: the next input is a transaction that the decoder rejects, for its reason,
or a decode of the zero frame. R90; log 4, log 8. -/
theorem stepWith_refused (selW : Nat) (s : State) (e : Refusal) :
    stepWith selW s = .refused e ↔
      ∃ r rest, s.pending = .issue r :: rest ∧
        ((∃ why, decode selW r = .error why ∧ e = .malformedTransaction why) ∨
          (r.shaped selW = true ∧ r.call = .decode ∧ s.available = false ∧
            e = .zeroFrameDecode)) := by
  match h : s.pending with
  | [] => simp [stepWith_nil h]
  | .rst :: rest => simp [stepWith_rst h]
  | .issue r :: rest =>
    cases hdec : decode selW r with
    | error why =>
      simp [stepWith_issue_error h hdec, not_shaped_of_decode_error hdec, hdec, eq_comm (a := e)]
    | ok op =>
      obtain ⟨-, -, rfl⟩ := (decode_ok_iff selW r op).mp hdec
      rw [stepWith_issue_ok h hdec, exec_operationOf_refused, available_withPending]
      simp [shaped_of_decode_ok hdec, hdec]

/-- Settles O39: the block has no fault to name, and what the decoder rejects is what has not the shape of
its format. -/
theorem whenAStepStops : Obligations.WhenAStepStops := by
  intro selW s
  refine ⟨fun e => (nomatch e), Iff.intro ?stops ?refused⟩
  case stops =>
    rintro ⟨e, hrefused⟩
    obtain ⟨r, rest, hpending, ⟨why, hdec, -⟩ | ⟨-, hcall, havail, -⟩⟩ :=
      (stepWith_refused selW s e).mp hrefused
    · exact ⟨r, rest, hpending, .inl (Bool.eq_false_iff.mpr (not_shaped_of_decode_error hdec))⟩
    · exact ⟨r, rest, hpending, .inr ⟨hcall, havail⟩⟩
  case refused =>
    rintro ⟨r, rest, hpending, hstops⟩
    cases hdec : decode selW r with
    | error why => exact ⟨_, stepWith_issue_error hpending hdec⟩
    | ok op =>
      have hshaped := shaped_of_decode_ok hdec
      obtain ⟨hcall, havail⟩ := hstops.resolve_left (by simp [hshaped])
      exact ⟨_, (stepWith_refused selW s _).mpr
        ⟨r, rest, hpending, .inr ⟨hshaped, hcall, havail, rfl⟩⟩⟩

end Sys2Proof.Machine
end

section
/-! PROOFS. Two alike states stay alike: whatever input comes next, both meet it the same way. -/

namespace Sys2Proof.Machine

/-- Equally available frames allow the same inputs. -/
theorem Input.allowed_congr {f g : Word} (h : availableOf f = availableOf g) (selW : Nat)
    (i : Input) : i.allowed selW f = i.allowed selW g := by
  cases i with
  | rst => rfl
  | issue r =>
    have hzero : f = 0 ↔ g = 0 := by
      rw [← availableOf_eq_false_iff, ← availableOf_eq_false_iff, h]
    rw [Bool.eq_iff_iff, Input.allowed_issue_iff, Input.allowed_issue_iff]
    exact and_congr_right' (imp_congr_right fun _ => not_congr hzero)

/-- R39: frames that agree on every bit a decode reads give the same answer to an input. -/
theorem Input.answers_congr {f g : Word} (h : agreeOnRead f g) (i : Input) :
    i.answers f = i.answers g := by
  match i with
  | .rst => rfl
  | .issue ⟨.new, _, _⟩ => rfl
  | .issue ⟨.acquire, _, _⟩ => rfl
  | .issue ⟨.decode, _, sel⟩ => simp only [Input.answers, decodeField_congr h sel]

/-- Alike states are alike after the same input: what it writes is the same in both, or it leaves both
frames as they were. -/
theorem Alike.afterInput {s t : State} (h : Alike s t) (i : Input) (rest : List Input) :
    Alike (s.afterInput i rest) (t.afterInput i rest) := by
  refine ⟨rfl, ?returned, ?available, ?read⟩
  case returned =>
    rw [State.returned_afterInput, State.returned_afterInput, h.same_returned,
      Input.answers_congr h.same_read]
  case available =>
    rw [State.available_afterInput, State.available_afterInput]
    cases i.writes with
    | none => exact h.same_available
    | some w => rfl
  case read =>
    rw [State.rawFrame_afterInput, State.rawFrame_afterInput]
    cases i.writes with
    | none => exact h.same_read
    | some w => exact fun _ _ _ _ _ => rfl

/-- Settles O48: a step that completes is idle or one allowed input, which the other state allows too, and
why a step is refused is read off the inputs to come and `available`. -/
theorem unreadBitsStayHidden : Obligations.UnreadBitsStayHidden := by
  intro selW s t halike
  refine ⟨?completes, ?refused⟩
  case completes =>
    intro s' hstep
    obtain ⟨hidle, rfl⟩ | ⟨i, rest, hpending, hallowed, rfl⟩ := (stepWith_next selW s s').mp hstep
    · exact ⟨t, stepWith_nil (halike.same_pending ▸ hidle) selW, halike⟩
    · have hallowed' : i.allowed selW t.rawFrame = true :=
        (Input.allowed_congr halike.same_available selW i).symm.trans hallowed
      exact ⟨_, stepWith_of_allowed (halike.same_pending ▸ hpending) hallowed',
        halike.afterInput i rest⟩
  case refused =>
    intro e hrefused
    rw [stepWith_refused, halike.same_pending, halike.same_available] at hrefused
    exact (stepWith_refused selW t e).mpr hrefused

end Sys2Proof.Machine
end

section
/-! PROOFS. Runs that end in a decode: what it reads when the host keeps its duty, and that it is refused
when the frame was discarded before it. -/

namespace Sys2Proof.Machine

/-! ## A decode after other inputs -/

/-- The frame some inputs leave is the one the later inputs meet. -/
theorem latestFrame_append (f : Word) (ins later : List Input) :
    latestFrame f (ins ++ later) = latestFrame (latestFrame f ins) later := by
  induction ins generalizing f with
  | nil => rfl
  | cons i rest ih => rw [List.cons_append, latestFrame_cons, latestFrame_cons, ih]

/-- The later inputs answer for the frame the earlier ones leave. R52. -/
theorem transcript_append (f : Word) (ins later : List Input) :
    transcript f (ins ++ later) = transcript f ins ++ transcript (latestFrame f ins) later := by
  induction ins generalizing f with
  | nil => rfl
  | cons i rest ih =>
    rw [List.cons_append, transcript_cons, transcript_cons, latestFrame_cons, ih, List.append_assoc]

/-- Settles O42: the run completes with its transcript, whose last value is the answer of the decode at
the frame the inputs before it leave. -/
theorem decReadsTheLatestFrame : Obligations.DecReadsTheLatestFrame := by
  intro selW s before sel hpending hduty
  refine ⟨_, run_of_keepsDuty rfl hduty, ?frame, ?value⟩
  case frame =>
    rw [hpending]
    exact latestFrame_append s.rawFrame before [.issue (decRequest selW sel)]
  case value =>
    rw [hpending, State.afterInputs, transcript_append, ← List.append_assoc]
    exact List.getLast?_concat

/-! ## A decode after the frame was discarded -/

/-- R85, R130: reset and `INIT`, when they come next, are the same event. -/
theorem stepWith_discards {s : State} {i : Input} {rest : List Input}
    (hdiscards : i = .rst ∨ i = .issue initRequest) (hpending : s.pending = i :: rest)
    (selW : Nat) :
    stepWith selW s = .next (applyReset { s with pending := rest }) := by
  obtain rfl | rfl := hdiscards
  · exact stepWith_rst hpending selW
  · exact stepWith_issue_ok (op := .init) hpending rfl

/-- R62, R90: a decode of the zero frame that comes next is refused. -/
theorem stepWith_decRequest_refused {selW sel : Nat} {s : State} {rest : List Input}
    (hpending : s.pending = .issue (decRequest selW sel) :: rest) (hfits : sel < 2 ^ selW)
    (hzero : s.available = false) : stepWith selW s = .refused .zeroFrameDecode := by
  rw [stepWith_issue_ok hpending (decode_decRequest hfits)]
  exact exec_decOf_of_unavailable sel hzero

/-- Settles O45: the acquisition and the discarding input complete, and the decode meets `RESET_FRAME`,
which is zero. -/
theorem initDiscardsTheFrame : Obligations.InitDiscardsTheFrame := by
  intro selW s w sel rest i hfits hdiscards hpending
  calc Host.Core.run (machineAt selW) 3 s
      = Host.Core.run (machineAt selW) 2 ⟨⟨w⟩, i :: .issue (decRequest selW sel) :: rest,
          s.returned ++ [.available (availableOf w)]⟩ :=
        run_succ selW 2 _ _ (stepWith_acqRequest hpending selW)
    _ = Host.Core.run (machineAt selW) 1 ⟨⟨Config.resetFrame⟩, .issue (decRequest selW sel) :: rest,
          s.returned ++ [.available (availableOf w)]⟩ :=
        run_succ selW 1 _ _ (stepWith_discards hdiscards rfl selW)
    _ = .refused .zeroFrameDecode :=
        run_refused selW 0 _ _ (stepWith_decRequest_refused rfl hfits rfl)

/-! ## A decode at two selector widths -/

/-- R62, R64: a decode issued to come next is its operation at the state it was issued in. -/
theorem stepWith_submitFirst_decRequest {selW sel : Nat} (hfits : sel < 2 ^ selW) (s : State) :
    stepWith selW (s.submitFirst (.issue (decRequest selW sel))) = exec (decOf sel) s :=
  stepWith_issue_ok (State.pending_submitFirst s _) (decode_decRequest hfits)

/-- Settles O52: at either width the step is the operation of the selector, which does not name a
width. -/
theorem selectorWidthChangesNoResult : Obligations.SelectorWidthChangesNoResult := by
  intro v w sel s _ _ hv hw
  rw [stepWith_submitFirst_decRequest hv, stepWith_submitFirst_decRequest hw]

end Sys2Proof.Machine
end

section
/-! PROOFS. Several copies of the block: a joint step is the step of the copy it names. -/

namespace Sys2Proof.Machine

/-- With no copy of that number a joint step changes nothing; log 14. -/
theorem stepAt_absent {blocks : List State} {k : Nat} (h : blocks[k]? = none) (selW : Nat) :
    stepAt selW k blocks = .next blocks := by
  simp only [stepAt, h]

/-- All a joint step of a copy that is there can do: complete as the copy's own step does, putting its next
state in its place, or be refused as that step is. R43, R121; log 14. -/
theorem stepAt_present {blocks : List State} {k : Nat} {s : State} (h : blocks[k]? = some s)
    (selW : Nat) :
    (∃ s', stepWith selW s = .next s' ∧ stepAt selW k blocks = .next (blocks.set k s')) ∨
      ∃ e, stepWith selW s = .refused e ∧ stepAt selW k blocks = .refused e := by
  cases hstep : stepWith selW s with
  | next s' => exact .inl ⟨s', rfl, by simp only [stepAt, h, hstep]⟩
  | fault e => cases e
  | refused e => exact .inr ⟨e, rfl, by simp only [stepAt, h, hstep]⟩

/-- Settles O49: a joint step of an absent copy changes nothing, and one of a present copy replaces that
copy by its own next state or is refused with it. -/
theorem instancesAreIndependent : Obligations.InstancesAreIndependent := by
  intro selW k blocks
  cases hk : blocks[k]? with
  | none =>
    rw [stepAt_absent hk]
    refine ⟨?_, by simp⟩
    rintro _ ⟨⟩
    exact ⟨rfl, fun _ _ => rfl, nofun⟩
  | some s =>
    obtain ⟨s', hstep, hjoint⟩ | ⟨e, hstep, hjoint⟩ := stepAt_present hk selW
    · have hlt : k < blocks.length := (List.getElem?_eq_some_iff.mp hk).1
      rw [hjoint]
      refine ⟨?_, by simp [hstep]⟩
      rintro _ ⟨⟩
      refine ⟨List.length_set, fun j hj => List.getElem?_set_ne hj.symm, ?_⟩
      rintro _ ⟨⟩
      exact ⟨s', hstep, List.getElem?_set_self hlt⟩
    · rw [hjoint]
      exact ⟨nofun, by simp [hstep]⟩

end Sys2Proof.Machine
end

section
/-! PROOFS. The bytes of a frame, and transactions written out as bytes. -/

namespace Sys2Proof.Machine

/-- Settles O8: the frame is the format `A` operand as a number, and cutting it into bytes undoes the
assembly. -/
theorem frameIsBigEndian : Obligations.FrameIsBigEndian := by
  intro b0 b1 b2 b3
  refine ⟨?number, ?bytes⟩
  case number =>
    rw [assembleFrame_toNat, acqOperand]
    ring
  case bytes =>
    have hbytes := acqw_assembleFrame b0 b1 b2 b3
    rwa [acqw, Instr.acq.injEq] at hbytes

/-- R46, R62: four bytes presented with `acquire()` are the acquisition of the frame they assemble to. -/
theorem requestOfBytes_acquire (b0 b1 b2 b3 : Byte) :
    requestOfBytes .acquire [b0, b1, b2, b3] = acqRequest (assembleFrame b0 b1 b2 b3) := by
  have hoperand : [b0, b1, b2, b3].foldl (fun n b => 256 * n + b.toNat) 0 =
      acqOperand b0 b1 b2 b3 := by
    simp only [List.foldl_cons, List.foldl_nil, acqOperand]
    ring
  rw [requestOfBytes, hoperand, acqRequest, assembleFrame_toNat]
  rfl

/-- R62: four bytes presented with `acquire()` decode to `ACQ` of those bytes in that order. -/
theorem decodeBytes_acquire (selW : Nat) (b0 b1 b2 b3 : Byte) :
    decodeBytes selW .acquire [b0, b1, b2, b3] = .ok (.acq b0 b1 b2 b3) := by
  rw [decodeBytes, requestOfBytes_acquire, decode_acqRequest, acqw_assembleFrame]

/-- R62, R74: a byte presented with `decode(selector)` at the default width decodes to the `DEC` of that
selector. -/
theorem decodeBytes_decode (b : Byte) :
    decodeBytes Config.selW .decode [b] = .ok (decOf b.toNat) := by
  have hrequest : requestOfBytes .decode [b] = decRequest Config.selW b.toNat := by
    simp [requestOfBytes, decRequest, Config.selW]
  rw [decodeBytes, hrequest]
  exact decode_decRequest b.isLt

/-- Settles O6: four bytes are an acquisition and one is a selector, which the map names; three bytes have
not the width of format `A`. -/
theorem writtenTransactionsDecode : Obligations.WrittenTransactionsDecode :=
  ⟨rfl, decodeBytes_acquire _ _ _ _ _, decodeBytes_decode 4, decodeBytes_decode 3,
    decodeBytes_decode 2, decodeBytes_decode 1, decodeBytes_decode 0, decodeBytes_decode 0x84, rfl⟩

end Sys2Proof.Machine
end

section
/-! PROOFS. The loads and reset: what they write, what they leave, and the state right after reset. -/

namespace Sys2Proof.Machine

/-! ## The loads -/

/-- R85: `INIT` is the reset event. -/
theorem exec_init (s : State) : exec .init s = .next (applyReset s) := rfl

/-- Settles O15: the reset event zeroes the register alone, and the zero frame is not available. -/
theorem initZeroesTheFrame : Obligations.InitZeroesTheFrame := by
  intro s
  refine ⟨?completes, ?available⟩
  case completes => rw [exec_init, applyReset_eq]
  case available => exact (availableOf_eq_false_iff _).mpr rfl

/-- All a load can do, from every state: the same frame written and at most one value returned, with the
inputs to come as they were. R80, R85. -/
theorem exec_load {i : Instr} (hload : i = .init ∨ ∃ b0 b1 b2 b3, i = .acq b0 b1 b2 b3) :
    ∃ (f : Word) (l : List Return), l.length ≤ 1 ∧
      ∀ s : State, exec i s = .next ⟨⟨f⟩, s.pending, s.returned ++ l⟩ := by
  obtain rfl | ⟨b0, b1, b2, b3, rfl⟩ := hload
  · refine ⟨Config.resetFrame, [], Nat.zero_le 1, fun s => ?_⟩
    rw [exec_init, applyReset_eq, List.append_nil]
    rfl
  · exact ⟨assembleFrame b0 b1 b2 b3, [.available _], le_rfl, fun s => exec_acq b0 b1 b2 b3 s⟩

/-- Settles O16: what a load writes and returns does not name the earlier frame. -/
theorem loadsTouchNothingElse : Obligations.LoadsTouchNothingElse := by
  intro i s t hload hnext
  obtain ⟨f, l, hlength, hexec⟩ := exec_load hload
  rw [hexec] at hnext
  cases hnext
  exact ⟨rfl, ⟨l, rfl, hlength⟩, fun _ => hexec _⟩

/-! ## Reset -/

/-- Settles O37: the reset event at any width, and so at the default width, which is the host's. -/
theorem resetEventZeroesTheFrame : Obligations.ResetEventZeroesTheFrame := by
  intro selW s rest hpending
  have hreset : ∀ width, stepWith width s =
      .next { s with block := ⟨0x00000000#32⟩, pending := rest } := by
    intro width
    rw [stepWith_rst hpending, applyReset_eq]
  exact ⟨hreset selW, hreset Config.selW⟩

@[simp] theorem State.rawFrame_reset : State.reset.rawFrame = 0x00000000#32 := rfl
@[simp] theorem State.returned_reset : State.reset.returned = [] := rfl
@[simp] theorem State.available_reset : State.reset.available = false := rfl

/-- Settles O38: the register after reset is ten zero fields put together. -/
theorem stateAfterReset : Obligations.StateAfterReset := by
  have hfields : State.reset.rawFrame =
      frameOfFields false 0 false false false 0 false false false false := rfl
  obtain ⟨hhs, hhm, h17, hfa, hcs, hcm, h3, h2, h1, h0⟩ :=
    fields_of_frameOfFields _ _ _ _ _ _ _ _ _ _ _ hfields
  exact ⟨State.rawFrame_reset, hhs, hhm, h17, hfa, hcs, hcm, h3, h2, h1, h0, State.available_reset⟩

/-- Settles O47: right after reset no value was returned and no frame is available. -/
theorem resetMeetsRunInv : Obligations.ResetMeetsRunInv := by
  refine ⟨?readings, ?told, ?ranges⟩
  case readings => rw [State.returned_reset, announced]
  case told => simp
  case ranges => simp

/-- Settles O51: the host's step and machine are defined at the default width. -/
theorem hostMachineIsTheDefaultWidth : Obligations.HostMachineIsTheDefaultWidth :=
  ⟨fun _ => rfl, core_eq_machineAt, rfl, by decide⟩

end Sys2Proof.Machine
end
